-- ==== Sys2Proof/Word.lean ====
section
/-! DEFINITION. The two word types of the core (00_scope.md R6, R10). -/

namespace Sys2Proof

/-- An 8-bit byte: the data width and the memory unit (R6). -/
abbrev Byte := BitVec 8

/-- A 16-bit word: an address, the PC, the effective address (R6). -/
abbrev Word := BitVec 16

end Sys2Proof
end

