-- ==== Sys2Proof/Config.lean ====
section
/-! DEFINITION. The seven parameters of the core (00_scope.md R7), its two named profiles (R8), the
defaults of three of them (R9), and the assignment the machine has after reset. -/

namespace Sys2Proof.Config

/-- `P_FLAGS`: how a flag-affecting instruction writes each flag it evaluates (R7, R31). -/
inductive FlagPolicy where
  | setOnly
  | clearThenSet
  deriving DecidableEq, Repr, Inhabited

/-- `P_ADC_CARRY_IN`: whether ADC adds the Carry flag (R7, R150). -/
inductive AdcCarryIn where
  | ignored
  | included
  deriving DecidableEq, Repr, Inhabited

/-- `P_ADC_N`: the condition under which ADC sets Negative (R7, R150). -/
inductive AdcNegative where
  | signsDiffer
  | resultBit7
  deriving DecidableEq, Repr, Inhabited

/-- `P_ASL_DEST`: where ASL of a memory operand writes its result (R7, R180). -/
inductive AslDest where
  | accumulator
  | source
  deriving DecidableEq, Repr, Inhabited

/-- `P_ADDR_OVERFLOW`: what an address computation past 0xFFFF or below 0 does (R7, R53). -/
inductive AddrOverflow where
  | fault
  | wrap16
  deriving DecidableEq, Repr, Inhabited

/-- `P_ZP_PTR_WRAP`: where the high byte of a zero-page pointer at 0xFF is read (R7, R121). -/
inductive ZpPtrWrap where
  | wrap
  | linear
  deriving DecidableEq, Repr, Inhabited

/-- `P_IND_PTR_WRAP`: where the high byte of an Indirect pointer at 0xxxFF is read (R7, R130). -/
inductive IndPtrWrap where
  | linear
  | pageWrap
  deriving DecidableEq, Repr, Inhabited

/-- One assignment of the seven parameters (R7: "an argument of the step function"). -/
structure Params where
  flags : FlagPolicy
  adcCarryIn : AdcCarryIn
  adcNegative : AdcNegative
  aslDest : AslDest
  addrOverflow : AddrOverflow
  zpPtrWrap : ZpPtrWrap
  indPtrWrap : IndPtrWrap
  deriving DecidableEq, Repr

/-- The profile `OBSERVED` (R8), with the defaults of R9. -/
def observed : Params where
  flags := .setOnly
  adcCarryIn := .ignored
  adcNegative := .signsDiffer
  aslDest := .accumulator
  addrOverflow := .fault
  zpPtrWrap := .wrap
  indPtrWrap := .linear

/-- The profile `CORRECTED` (R8), with the defaults of R9. -/
def corrected : Params where
  flags := .clearThenSet
  adcCarryIn := .included
  adcNegative := .resultBit7
  aslDest := .source
  addrOverflow := .fault
  zpPtrWrap := .wrap
  indPtrWrap := .linear

/-- The machine's own `P_FLAGS`, which the spec leaves open (D2): a free value (log 2). -/
opaque flagPolicy : FlagPolicy

/-- The machine's own `P_ADC_CARRY_IN`, which the spec leaves open (D3): a free value (log 2). -/
opaque adcCarryIn : AdcCarryIn

/-- The machine's own `P_ADC_N`, which the spec leaves open (D4): a free value (log 2). -/
opaque adcNegative : AdcNegative

/-- The machine's own `P_ASL_DEST`, which the spec leaves open (D5): a free value (log 2). -/
opaque aslDest : AslDest

/-- The assignment the machine has after reset: the four open parameters free, the other three at the
defaults of R9 (logs 2 and 3). -/
def params : Params where
  flags := flagPolicy
  adcCarryIn := adcCarryIn
  adcNegative := adcNegative
  aslDest := aslDest
  addrOverflow := .fault
  zpPtrWrap := .wrap
  indPtrWrap := .linear

end Sys2Proof.Config
end

