-- ==== Sys2Proof/Syntax.lean ====
section
/-! DEFINITION. The instructions (30_encoding.md R72), the tags of an opcode descriptor and the
descriptor itself (R71). -/

namespace Sys2Proof

/-- The instruction tag of a descriptor: its executor (R2, R203). -/
inductive Mnemonic where
  | adc
  | and
  | lda
  | sta
  | asl
  deriving DecidableEq, Repr

/-- The addressing-mode tag of a descriptor: its resolver (40_addressing_modes.md R122 to R133). -/
inductive Mode where
  | immediate
  | accumulator
  | zeroPage
  | zeroPageX
  | zeroPageY
  | absolute
  | absoluteX
  | absoluteY
  | indirect
  | indirectX
  | indirectY
  | relative
  deriving DecidableEq, Repr

/-- The three instruction formats (R70): the opcode alone, with one operand byte, with two. -/
inductive Format where
  | f1
  | f2
  | f3
  deriving DecidableEq, Repr

/-- One populated descriptor of the opcode table (R71), with the opcode byte it stands at. -/
structure Descriptor where
  opcode : Byte
  instr : Mnemonic
  mode : Mode
  length : Nat
  baseCycles : Nat
  pageCrossPenaltyEligible : Bool
  deriving DecidableEq, Repr

/-- The operand of an instruction as the bytes after the opcode give it (R73). -/
inductive Operand where
  | none
  | byte (n : Byte)
  | word (w : Word)
  deriving DecidableEq, Repr

/-- The instructions, one constructor for each row of the opcode table (R72): `n` is the operand byte
of an F2 row, `w` the operand word of an F3 row (R73). -/
inductive Instr where
  /-- `ADC #$nn` (0x69). -/
  | adcImm (n : Byte)
  /-- `ADC $nn` (0x65). -/
  | adcZp (n : Byte)
  /-- `ADC $nn,X` (0x75). -/
  | adcZpX (n : Byte)
  /-- `ADC $nnnn` (0x6D). -/
  | adcAbs (w : Word)
  /-- `ADC $nnnn,X` (0x7D). -/
  | adcAbsX (w : Word)
  /-- `ADC $nnnn,Y` (0x79). -/
  | adcAbsY (w : Word)
  /-- `ADC ($nn,X)` (0x61). -/
  | adcIndX (n : Byte)
  /-- `ADC ($nn),Y` (0x71). -/
  | adcIndY (n : Byte)
  /-- `AND #$nn` (0x29). -/
  | andImm (n : Byte)
  /-- `AND $nn` (0x25). -/
  | andZp (n : Byte)
  /-- `AND $nn,X` (0x35). -/
  | andZpX (n : Byte)
  /-- `AND $nnnn` (0x2D). -/
  | andAbs (w : Word)
  /-- `AND $nnnn,X` (0x3D). -/
  | andAbsX (w : Word)
  /-- `AND $nnnn,Y` (0x39). -/
  | andAbsY (w : Word)
  /-- `AND ($nn,X)` (0x21). -/
  | andIndX (n : Byte)
  /-- `AND ($nn),Y` (0x31). -/
  | andIndY (n : Byte)
  /-- `LDA #$nn` (0xA9). -/
  | ldaImm (n : Byte)
  /-- `LDA $nn` (0xA5). -/
  | ldaZp (n : Byte)
  /-- `LDA $nn,X` (0xB5). -/
  | ldaZpX (n : Byte)
  /-- `LDA $nnnn` (0xAD). -/
  | ldaAbs (w : Word)
  /-- `LDA $nnnn,X` (0xBD). -/
  | ldaAbsX (w : Word)
  /-- `LDA $nnnn,Y` (0xB9). -/
  | ldaAbsY (w : Word)
  /-- `LDA ($nn,X)` (0xA1). -/
  | ldaIndX (n : Byte)
  /-- `LDA ($nn),Y` (0xB1). -/
  | ldaIndY (n : Byte)
  /-- `STA $nn` (0x85). -/
  | staZp (n : Byte)
  /-- `STA $nn,X` (0x95). -/
  | staZpX (n : Byte)
  /-- `STA $nnnn` (0x8D). -/
  | staAbs (w : Word)
  /-- `STA $nnnn,X` (0x9D). -/
  | staAbsX (w : Word)
  /-- `STA $nnnn,Y` (0x99). -/
  | staAbsY (w : Word)
  /-- `STA ($nn,X)` (0x81). -/
  | staIndX (n : Byte)
  /-- `STA ($nn),Y` (0x91). -/
  | staIndY (n : Byte)
  /-- `ASL A` (0x0A). -/
  | aslAcc
  /-- `ASL $nn` (0x06). -/
  | aslZp (n : Byte)
  /-- `ASL $nn,X` (0x16). -/
  | aslZpX (n : Byte)
  /-- `ASL $nnnn` (0x0E). -/
  | aslAbs (w : Word)
  /-- `ASL $nnnn,X` (0x1E). -/
  | aslAbsX (w : Word)
  deriving DecidableEq, Repr

/-- The operand an instruction carries. -/
def Instr.operand : Instr → Operand
  | .adcImm n => .byte n
  | .adcZp n => .byte n
  | .adcZpX n => .byte n
  | .adcAbs w => .word w
  | .adcAbsX w => .word w
  | .adcAbsY w => .word w
  | .adcIndX n => .byte n
  | .adcIndY n => .byte n
  | .andImm n => .byte n
  | .andZp n => .byte n
  | .andZpX n => .byte n
  | .andAbs w => .word w
  | .andAbsX w => .word w
  | .andAbsY w => .word w
  | .andIndX n => .byte n
  | .andIndY n => .byte n
  | .ldaImm n => .byte n
  | .ldaZp n => .byte n
  | .ldaZpX n => .byte n
  | .ldaAbs w => .word w
  | .ldaAbsX w => .word w
  | .ldaAbsY w => .word w
  | .ldaIndX n => .byte n
  | .ldaIndY n => .byte n
  | .staZp n => .byte n
  | .staZpX n => .byte n
  | .staAbs w => .word w
  | .staAbsX w => .word w
  | .staAbsY w => .word w
  | .staIndX n => .byte n
  | .staIndY n => .byte n
  | .aslAcc => .none
  | .aslZp n => .byte n
  | .aslZpX n => .byte n
  | .aslAbs w => .word w
  | .aslAbsX w => .word w

/-- The instruction tag of an instruction (R72). -/
def Instr.mnemonic : Instr → Mnemonic
  | .adcImm _ => .adc
  | .adcZp _ => .adc
  | .adcZpX _ => .adc
  | .adcAbs _ => .adc
  | .adcAbsX _ => .adc
  | .adcAbsY _ => .adc
  | .adcIndX _ => .adc
  | .adcIndY _ => .adc
  | .andImm _ => .and
  | .andZp _ => .and
  | .andZpX _ => .and
  | .andAbs _ => .and
  | .andAbsX _ => .and
  | .andAbsY _ => .and
  | .andIndX _ => .and
  | .andIndY _ => .and
  | .ldaImm _ => .lda
  | .ldaZp _ => .lda
  | .ldaZpX _ => .lda
  | .ldaAbs _ => .lda
  | .ldaAbsX _ => .lda
  | .ldaAbsY _ => .lda
  | .ldaIndX _ => .lda
  | .ldaIndY _ => .lda
  | .staZp _ => .sta
  | .staZpX _ => .sta
  | .staAbs _ => .sta
  | .staAbsX _ => .sta
  | .staAbsY _ => .sta
  | .staIndX _ => .sta
  | .staIndY _ => .sta
  | .aslAcc => .asl
  | .aslZp _ => .asl
  | .aslZpX _ => .asl
  | .aslAbs _ => .asl
  | .aslAbsX _ => .asl

/-- The addressing mode of an instruction (R72). -/
def Instr.mode : Instr → Mode
  | .adcImm _ => .immediate
  | .adcZp _ => .zeroPage
  | .adcZpX _ => .zeroPageX
  | .adcAbs _ => .absolute
  | .adcAbsX _ => .absoluteX
  | .adcAbsY _ => .absoluteY
  | .adcIndX _ => .indirectX
  | .adcIndY _ => .indirectY
  | .andImm _ => .immediate
  | .andZp _ => .zeroPage
  | .andZpX _ => .zeroPageX
  | .andAbs _ => .absolute
  | .andAbsX _ => .absoluteX
  | .andAbsY _ => .absoluteY
  | .andIndX _ => .indirectX
  | .andIndY _ => .indirectY
  | .ldaImm _ => .immediate
  | .ldaZp _ => .zeroPage
  | .ldaZpX _ => .zeroPageX
  | .ldaAbs _ => .absolute
  | .ldaAbsX _ => .absoluteX
  | .ldaAbsY _ => .absoluteY
  | .ldaIndX _ => .indirectX
  | .ldaIndY _ => .indirectY
  | .staZp _ => .zeroPage
  | .staZpX _ => .zeroPageX
  | .staAbs _ => .absolute
  | .staAbsX _ => .absoluteX
  | .staAbsY _ => .absoluteY
  | .staIndX _ => .indirectX
  | .staIndY _ => .indirectY
  | .aslAcc => .accumulator
  | .aslZp _ => .zeroPage
  | .aslZpX _ => .zeroPageX
  | .aslAbs _ => .absolute
  | .aslAbsX _ => .absoluteX

end Sys2Proof
end

