-- ==== Sys2Proof/WellFormed.lean ====
section
/-! DEFINITION. What makes an instruction and a descriptor well formed (30_encoding.md R70 to R72). An
instruction's operand fields carry their widths in their types, so the checks are those of the table:
the (instruction, mode) pair is admitted, the length is the mode's, and only a mode that can cross a
page is penalty-eligible. -/

namespace Sys2Proof

/-- The format of the instructions of a mode (R70). -/
def Mode.format : Mode → Format
  | .accumulator => .f1
  | .immediate => .f2
  | .zeroPage => .f2
  | .zeroPageX => .f2
  | .zeroPageY => .f2
  | .indirectX => .f2
  | .indirectY => .f2
  | .relative => .f2
  | .absolute => .f3
  | .absoluteX => .f3
  | .absoluteY => .f3
  | .indirect => .f3

/-- The length in bytes of a format (R70). -/
def Format.length : Format → Nat
  | .f1 => 1
  | .f2 => 2
  | .f3 => 3

/-- The modes whose resolver can report a page cross (R135). -/
def Mode.canCross : Mode → Bool
  | .absoluteX => true
  | .absoluteY => true
  | .indirectY => true
  | .immediate => false
  | .accumulator => false
  | .zeroPage => false
  | .zeroPageX => false
  | .zeroPageY => false
  | .absolute => false
  | .indirect => false
  | .indirectX => false
  | .relative => false

/-- The modes in which each instruction is admitted (R2, R72). -/
def Mnemonic.modes : Mnemonic → List Mode
  | .adc => [.immediate, .zeroPage, .zeroPageX, .absolute, .absoluteX, .absoluteY, .indirectX, .indirectY]
  | .and => [.immediate, .zeroPage, .zeroPageX, .absolute, .absoluteX, .absoluteY, .indirectX, .indirectY]
  | .lda => [.immediate, .zeroPage, .zeroPageX, .absolute, .absoluteX, .absoluteY, .indirectX, .indirectY]
  | .sta => [.zeroPage, .zeroPageX, .absolute, .absoluteX, .absoluteY, .indirectX, .indirectY]
  | .asl => [.accumulator, .zeroPage, .zeroPageX, .absolute, .absoluteX]

/-- Whether the table admits an instruction in a mode (R72). -/
def admitted (m : Mnemonic) (md : Mode) : Bool :=
  m.modes.contains md

/-- Whether an operand has the shape a format gives it (R70, R73). -/
def Operand.fits : Operand → Format → Bool
  | .none, .f1 => true
  | .byte _, .f2 => true
  | .word _, .f3 => true
  | .none, .f2 => false
  | .none, .f3 => false
  | .byte _, .f1 => false
  | .byte _, .f3 => false
  | .word _, .f1 => false
  | .word _, .f2 => false

/-- A descriptor is well formed: an admitted pair, the length of its mode's format, and eligible for
the penalty only in a mode that can cross a page (R70, R72, R135). -/
def Descriptor.wellFormed (d : Descriptor) : Bool :=
  admitted d.instr d.mode && d.length == d.mode.format.length &&
    (!d.pageCrossPenaltyEligible || d.mode.canCross)

/-- An instruction is well formed: an admitted pair whose operand has its mode's shape. -/
def Instr.wellFormed (i : Instr) : Bool :=
  admitted i.mnemonic i.mode && i.operand.fits i.mode.format

end Sys2Proof
end

