-- ==== Sys2Proof/Decode.lean ====
section
/-! DEFINITION. The opcode table, the decoder and, after it, the encoder (30_encoding.md R70 to R77,
20_memory.md R56). -/

namespace Sys2Proof

/-- `lo(w)`: bits 7 to 0 of a word (00_scope.md R10). -/
def loByte (w : Word) : Byte := w.extractLsb' 0 8

/-- `hi(w)`: bits 15 to 8 of a word (R10). -/
def hiByte (w : Word) : Byte := w.extractLsb' 8 8

/-- The word made of the high byte `h` and the low byte `l` (R10). -/
def joinBytes (h l : Byte) : Word := h ++ l

/-- `ADC #$nn` (R72). -/
def descAdcImm : Descriptor :=
  { opcode := 0x69, instr := .adc, mode := .immediate, length := 2, baseCycles := 2,
    pageCrossPenaltyEligible := false }

/-- `ADC $nn` (R72). -/
def descAdcZp : Descriptor :=
  { opcode := 0x65, instr := .adc, mode := .zeroPage, length := 2, baseCycles := 3,
    pageCrossPenaltyEligible := false }

/-- `ADC $nn,X` (R72). -/
def descAdcZpX : Descriptor :=
  { opcode := 0x75, instr := .adc, mode := .zeroPageX, length := 2, baseCycles := 4,
    pageCrossPenaltyEligible := false }

/-- `ADC $nnnn` (R72). -/
def descAdcAbs : Descriptor :=
  { opcode := 0x6D, instr := .adc, mode := .absolute, length := 3, baseCycles := 4,
    pageCrossPenaltyEligible := false }

/-- `ADC $nnnn,X` (R72). -/
def descAdcAbsX : Descriptor :=
  { opcode := 0x7D, instr := .adc, mode := .absoluteX, length := 3, baseCycles := 4,
    pageCrossPenaltyEligible := true }

/-- `ADC $nnnn,Y` (R72). -/
def descAdcAbsY : Descriptor :=
  { opcode := 0x79, instr := .adc, mode := .absoluteY, length := 3, baseCycles := 4,
    pageCrossPenaltyEligible := true }

/-- `ADC ($nn,X)` (R72). -/
def descAdcIndX : Descriptor :=
  { opcode := 0x61, instr := .adc, mode := .indirectX, length := 2, baseCycles := 6,
    pageCrossPenaltyEligible := false }

/-- `ADC ($nn),Y` (R72). -/
def descAdcIndY : Descriptor :=
  { opcode := 0x71, instr := .adc, mode := .indirectY, length := 2, baseCycles := 5,
    pageCrossPenaltyEligible := true }

/-- `AND #$nn` (R72). -/
def descAndImm : Descriptor :=
  { opcode := 0x29, instr := .and, mode := .immediate, length := 2, baseCycles := 2,
    pageCrossPenaltyEligible := false }

/-- `AND $nn` (R72). -/
def descAndZp : Descriptor :=
  { opcode := 0x25, instr := .and, mode := .zeroPage, length := 2, baseCycles := 3,
    pageCrossPenaltyEligible := false }

/-- `AND $nn,X` (R72). -/
def descAndZpX : Descriptor :=
  { opcode := 0x35, instr := .and, mode := .zeroPageX, length := 2, baseCycles := 4,
    pageCrossPenaltyEligible := false }

/-- `AND $nnnn` (R72). -/
def descAndAbs : Descriptor :=
  { opcode := 0x2D, instr := .and, mode := .absolute, length := 3, baseCycles := 4,
    pageCrossPenaltyEligible := false }

/-- `AND $nnnn,X` (R72). -/
def descAndAbsX : Descriptor :=
  { opcode := 0x3D, instr := .and, mode := .absoluteX, length := 3, baseCycles := 4,
    pageCrossPenaltyEligible := true }

/-- `AND $nnnn,Y` (R72). -/
def descAndAbsY : Descriptor :=
  { opcode := 0x39, instr := .and, mode := .absoluteY, length := 3, baseCycles := 4,
    pageCrossPenaltyEligible := true }

/-- `AND ($nn,X)` (R72). -/
def descAndIndX : Descriptor :=
  { opcode := 0x21, instr := .and, mode := .indirectX, length := 2, baseCycles := 6,
    pageCrossPenaltyEligible := false }

/-- `AND ($nn),Y` (R72). -/
def descAndIndY : Descriptor :=
  { opcode := 0x31, instr := .and, mode := .indirectY, length := 2, baseCycles := 5,
    pageCrossPenaltyEligible := true }

/-- `LDA #$nn` (R72). -/
def descLdaImm : Descriptor :=
  { opcode := 0xA9, instr := .lda, mode := .immediate, length := 2, baseCycles := 2,
    pageCrossPenaltyEligible := false }

/-- `LDA $nn` (R72). -/
def descLdaZp : Descriptor :=
  { opcode := 0xA5, instr := .lda, mode := .zeroPage, length := 2, baseCycles := 3,
    pageCrossPenaltyEligible := false }

/-- `LDA $nn,X` (R72). -/
def descLdaZpX : Descriptor :=
  { opcode := 0xB5, instr := .lda, mode := .zeroPageX, length := 2, baseCycles := 4,
    pageCrossPenaltyEligible := false }

/-- `LDA $nnnn` (R72). -/
def descLdaAbs : Descriptor :=
  { opcode := 0xAD, instr := .lda, mode := .absolute, length := 3, baseCycles := 4,
    pageCrossPenaltyEligible := false }

/-- `LDA $nnnn,X` (R72). -/
def descLdaAbsX : Descriptor :=
  { opcode := 0xBD, instr := .lda, mode := .absoluteX, length := 3, baseCycles := 4,
    pageCrossPenaltyEligible := true }

/-- `LDA $nnnn,Y` (R72). -/
def descLdaAbsY : Descriptor :=
  { opcode := 0xB9, instr := .lda, mode := .absoluteY, length := 3, baseCycles := 4,
    pageCrossPenaltyEligible := true }

/-- `LDA ($nn,X)` (R72). -/
def descLdaIndX : Descriptor :=
  { opcode := 0xA1, instr := .lda, mode := .indirectX, length := 2, baseCycles := 6,
    pageCrossPenaltyEligible := false }

/-- `LDA ($nn),Y` (R72). -/
def descLdaIndY : Descriptor :=
  { opcode := 0xB1, instr := .lda, mode := .indirectY, length := 2, baseCycles := 5,
    pageCrossPenaltyEligible := true }

/-- `STA $nn` (R72). -/
def descStaZp : Descriptor :=
  { opcode := 0x85, instr := .sta, mode := .zeroPage, length := 2, baseCycles := 3,
    pageCrossPenaltyEligible := false }

/-- `STA $nn,X` (R72). -/
def descStaZpX : Descriptor :=
  { opcode := 0x95, instr := .sta, mode := .zeroPageX, length := 2, baseCycles := 4,
    pageCrossPenaltyEligible := false }

/-- `STA $nnnn` (R72). -/
def descStaAbs : Descriptor :=
  { opcode := 0x8D, instr := .sta, mode := .absolute, length := 3, baseCycles := 4,
    pageCrossPenaltyEligible := false }

/-- `STA $nnnn,X` (R72). -/
def descStaAbsX : Descriptor :=
  { opcode := 0x9D, instr := .sta, mode := .absoluteX, length := 3, baseCycles := 5,
    pageCrossPenaltyEligible := false }

/-- `STA $nnnn,Y` (R72). -/
def descStaAbsY : Descriptor :=
  { opcode := 0x99, instr := .sta, mode := .absoluteY, length := 3, baseCycles := 5,
    pageCrossPenaltyEligible := false }

/-- `STA ($nn,X)` (R72). -/
def descStaIndX : Descriptor :=
  { opcode := 0x81, instr := .sta, mode := .indirectX, length := 2, baseCycles := 6,
    pageCrossPenaltyEligible := false }

/-- `STA ($nn),Y` (R72). -/
def descStaIndY : Descriptor :=
  { opcode := 0x91, instr := .sta, mode := .indirectY, length := 2, baseCycles := 6,
    pageCrossPenaltyEligible := false }

/-- `ASL A` (R72). -/
def descAslAcc : Descriptor :=
  { opcode := 0x0A, instr := .asl, mode := .accumulator, length := 1, baseCycles := 2,
    pageCrossPenaltyEligible := false }

/-- `ASL $nn` (R72). -/
def descAslZp : Descriptor :=
  { opcode := 0x06, instr := .asl, mode := .zeroPage, length := 2, baseCycles := 5,
    pageCrossPenaltyEligible := false }

/-- `ASL $nn,X` (R72). -/
def descAslZpX : Descriptor :=
  { opcode := 0x16, instr := .asl, mode := .zeroPageX, length := 2, baseCycles := 6,
    pageCrossPenaltyEligible := false }

/-- `ASL $nnnn` (R72). -/
def descAslAbs : Descriptor :=
  { opcode := 0x0E, instr := .asl, mode := .absolute, length := 3, baseCycles := 6,
    pageCrossPenaltyEligible := false }

/-- `ASL $nnnn,X` (R72). -/
def descAslAbsX : Descriptor :=
  { opcode := 0x1E, instr := .asl, mode := .absoluteX, length := 3, baseCycles := 7,
    pageCrossPenaltyEligible := false }

/-- The ADC rows of the table (R72). -/
def adcRows : List Descriptor :=
  [descAdcImm, descAdcZp, descAdcZpX, descAdcAbs,
   descAdcAbsX, descAdcAbsY, descAdcIndX, descAdcIndY]

/-- The AND rows of the table (R72). -/
def andRows : List Descriptor :=
  [descAndImm, descAndZp, descAndZpX, descAndAbs,
   descAndAbsX, descAndAbsY, descAndIndX, descAndIndY]

/-- The LDA rows of the table (R72). -/
def ldaRows : List Descriptor :=
  [descLdaImm, descLdaZp, descLdaZpX, descLdaAbs,
   descLdaAbsX, descLdaAbsY, descLdaIndX, descLdaIndY]

/-- The STA rows of the table (R72). -/
def staRows : List Descriptor :=
  [descStaZp, descStaZpX, descStaAbs, descStaAbsX,
   descStaAbsY, descStaIndX, descStaIndY]

/-- The ASL rows of the table (R72). -/
def aslRows : List Descriptor :=
  [descAslAcc, descAslZp, descAslZpX, descAslAbs,
   descAslAbsX]

/-- The populated descriptors, exactly these 36 (R72). -/
def opcodeTable : List Descriptor :=
  adcRows ++ andRows ++ ldaRows ++ staRows ++ aslRows

/-- `Desc(op)` (R71): the descriptor at an opcode byte, or `none` for the marker `UNPOPULATED` (R75). -/
def describe (op : Byte) : Option Descriptor :=
  opcodeTable.find? (fun d => d.opcode == op)

/-- Why a byte sequence is no instruction. -/
inductive DecodeError where
  /-- There is no byte to read an opcode from. -/
  | noBytes
  /-- The opcode byte is one of the 220 `UNPOPULATED` ones (R75). -/
  | unpopulated (op : Byte)
  /-- Fewer operand bytes follow than the opcode's length asks for (R70). -/
  | truncated (op : Byte)
  /-- A descriptor names a pair the table does not admit, which no row does (R72). -/
  | notAdmitted (m : Mnemonic) (md : Mode)
  deriving DecidableEq, Repr

/-- The instruction of a descriptor's tags with the operand bytes `l` (at PC+1) and `h` (at PC+2): the
operand is `l` in the F2 modes and the little-endian word in the F3 modes (R73, R56). -/
def assemble (m : Mnemonic) (md : Mode) (l h : Byte) : Except DecodeError Instr :=
  match m, md with
  | .adc, .immediate => .ok (.adcImm l)
  | .adc, .zeroPage => .ok (.adcZp l)
  | .adc, .zeroPageX => .ok (.adcZpX l)
  | .adc, .absolute => .ok (.adcAbs (joinBytes h l))
  | .adc, .absoluteX => .ok (.adcAbsX (joinBytes h l))
  | .adc, .absoluteY => .ok (.adcAbsY (joinBytes h l))
  | .adc, .indirectX => .ok (.adcIndX l)
  | .adc, .indirectY => .ok (.adcIndY l)
  | .and, .immediate => .ok (.andImm l)
  | .and, .zeroPage => .ok (.andZp l)
  | .and, .zeroPageX => .ok (.andZpX l)
  | .and, .absolute => .ok (.andAbs (joinBytes h l))
  | .and, .absoluteX => .ok (.andAbsX (joinBytes h l))
  | .and, .absoluteY => .ok (.andAbsY (joinBytes h l))
  | .and, .indirectX => .ok (.andIndX l)
  | .and, .indirectY => .ok (.andIndY l)
  | .lda, .immediate => .ok (.ldaImm l)
  | .lda, .zeroPage => .ok (.ldaZp l)
  | .lda, .zeroPageX => .ok (.ldaZpX l)
  | .lda, .absolute => .ok (.ldaAbs (joinBytes h l))
  | .lda, .absoluteX => .ok (.ldaAbsX (joinBytes h l))
  | .lda, .absoluteY => .ok (.ldaAbsY (joinBytes h l))
  | .lda, .indirectX => .ok (.ldaIndX l)
  | .lda, .indirectY => .ok (.ldaIndY l)
  | .sta, .zeroPage => .ok (.staZp l)
  | .sta, .zeroPageX => .ok (.staZpX l)
  | .sta, .absolute => .ok (.staAbs (joinBytes h l))
  | .sta, .absoluteX => .ok (.staAbsX (joinBytes h l))
  | .sta, .absoluteY => .ok (.staAbsY (joinBytes h l))
  | .sta, .indirectX => .ok (.staIndX l)
  | .sta, .indirectY => .ok (.staIndY l)
  | .asl, .accumulator => .ok .aslAcc
  | .asl, .zeroPage => .ok (.aslZp l)
  | .asl, .zeroPageX => .ok (.aslZpX l)
  | .asl, .absolute => .ok (.aslAbs (joinBytes h l))
  | .asl, .absoluteX => .ok (.aslAbsX (joinBytes h l))
  | m, md => .error (.notAdmitted m md)

/-- The decoder (R70, R71): the first instruction of a byte sequence and the bytes after it. The opcode
byte alone selects the instruction, its mode and its length (R70, R77). -/
def decode : List Byte → Except DecodeError (Instr × List Byte)
  | [] => .error .noBytes
  | op :: rest =>
    match describe op with
    | none => .error (.unpopulated op)
    | some d =>
      match d.mode.format, rest with
      | .f1, rest => (assemble d.instr d.mode 0 0).map (fun i => (i, rest))
      | .f2, l :: rest => (assemble d.instr d.mode l 0).map (fun i => (i, rest))
      | .f3, l :: h :: rest => (assemble d.instr d.mode l h).map (fun i => (i, rest))
      | .f2, [] => .error (.truncated op)
      | .f3, [] => .error (.truncated op)
      | .f3, [_] => .error (.truncated op)

/-- The row of the table an instruction belongs to (R72). -/
def Instr.descriptor : Instr → Descriptor
  | .adcImm _ => descAdcImm
  | .adcZp _ => descAdcZp
  | .adcZpX _ => descAdcZpX
  | .adcAbs _ => descAdcAbs
  | .adcAbsX _ => descAdcAbsX
  | .adcAbsY _ => descAdcAbsY
  | .adcIndX _ => descAdcIndX
  | .adcIndY _ => descAdcIndY
  | .andImm _ => descAndImm
  | .andZp _ => descAndZp
  | .andZpX _ => descAndZpX
  | .andAbs _ => descAndAbs
  | .andAbsX _ => descAndAbsX
  | .andAbsY _ => descAndAbsY
  | .andIndX _ => descAndIndX
  | .andIndY _ => descAndIndY
  | .ldaImm _ => descLdaImm
  | .ldaZp _ => descLdaZp
  | .ldaZpX _ => descLdaZpX
  | .ldaAbs _ => descLdaAbs
  | .ldaAbsX _ => descLdaAbsX
  | .ldaAbsY _ => descLdaAbsY
  | .ldaIndX _ => descLdaIndX
  | .ldaIndY _ => descLdaIndY
  | .staZp _ => descStaZp
  | .staZpX _ => descStaZpX
  | .staAbs _ => descStaAbs
  | .staAbsX _ => descStaAbsX
  | .staAbsY _ => descStaAbsY
  | .staIndX _ => descStaIndX
  | .staIndY _ => descStaIndY
  | .aslAcc => descAslAcc
  | .aslZp _ => descAslZp
  | .aslZpX _ => descAslZpX
  | .aslAbs _ => descAslAbs
  | .aslAbsX _ => descAslAbsX

/-- The length of an instruction in bytes, `Desc(op).length` (R77). -/
def Instr.length (i : Instr) : Nat := i.descriptor.length

/-- The operand bytes of an instruction in memory order: the low byte of a word first (R56, R70). -/
def Operand.bytes : Operand → List Byte
  | .none => []
  | .byte n => [n]
  | .word w => [loByte w, hiByte w]

/-- The encoder: the bytes of an instruction, the opcode at the lowest address (R70, R72). -/
def encode (i : Instr) : List Byte :=
  i.descriptor.opcode :: i.operand.bytes

/-- The first `k` bytes of an instruction whose bits are `w`, the opcode in bits 7 to 0 and each later
byte above the one before it, as spec/opcode_table.json numbers them. -/
def tableBytes (w : Nat) : Nat → List Byte
  | 0 => []
  | k + 1 => BitVec.ofNat 8 w :: tableBytes (w / 256) k

/-- The three bytes, the longest instruction (R70), of a table row's word of `nbits` bits: every bit
above `nbits` is 0. -/
def tableWindow (nbits w : Nat) : List Byte :=
  tableBytes (w % 2 ^ nbits) 3

/-- The instruction the decoder reads from an instruction whose bits are `w`. -/
def decodeTableWord (nbits w : Nat) : Option Instr :=
  match decode (tableWindow nbits w) with
  | .ok (i, _) => some i
  | .error _ => none

end Sys2Proof
end

