-- ==== Sys2Proof/Machine/State.lean ====
section
/-! DEFINITION. The state of the core (10_state.md R20, R32), the reasons a step can stop, and the state
right after initialisation (R36). -/

namespace Sys2Proof.Machine

/-- The kind of a recorded fault (10_state.md R32; 60_exceptions.md R221, R222). -/
inductive FaultKind where
  /-- A fetch pulse read an unpopulated opcode byte (R221). -/
  | unimplementedOpcode
  /-- An address computation gave `t`, outside 0x0000..0xFFFF, under `P_ADDR_OVERFLOW = fault` (R222). -/
  | addressOverflow (t : Int)
  deriving DecidableEq, Repr

/-- A fault record: the kind, the PC and the opcode byte of the pulse that raised it (R32). -/
structure FaultRecord where
  kind : FaultKind
  pc : Word
  opcode : Byte
  deriving DecidableEq, Repr

/-- Why a step gives no next state. -/
inductive Fault where
  /-- Raised by `step` alone, in a state whose `FAULT` is already recorded: such a state has no step (R225).
  Safe: the machine stops where the spec says the core takes no pulse. -/
  | halted (r : FaultRecord)
  deriving DecidableEq, Repr

/-- Why an instruction has no meaning. -/
inductive Refusal where
  /-- Raised by an arm of `exec` for an instruction that has no meaning yet; no arm does. Safe: the model
  stops where the hardware goes on. -/
  | notModelled (mnemonic : String)
  deriving DecidableEq, Repr

/-- The state of the core and its memory. -/
structure State where
  /-- `A`, the accumulator (R21). -/
  a : Byte
  /-- `X`, an index register (R22). -/
  x : Byte
  /-- `Y`, an index register (R22). -/
  y : Byte
  /-- `SP`, the stack pointer, which nothing in scope reads or writes (R23). -/
  sp : Byte
  /-- `PC`, the address of the next opcode byte at a boundary (R24). -/
  pc : Word
  /-- `P`, the status register, bits N V _ _ D I Z C from bit 7 to bit 0 (R25). -/
  p : Byte
  /-- `CYC`, the clock countdown: Idle at 0 or below, Executing above (R29). -/
  cyc : Int
  /-- `EA`, the effective-address scratch register (R30). -/
  ea : Word
  /-- `EA_ACC`, the "operate on A" tag of `EA` (R30). -/
  eaAcc : Bool
  /-- `FAULT`, none or the sticky fault record (R32). -/
  fault : Option FaultRecord
  /-- The 65536 bytes of memory (20_memory.md R50): the bytes that differ from what an unlisted address
  reads as, by strictly rising address. -/
  mem : List Host.Cell
  /-- The model's own field: the parameters of 00_scope.md R7, an argument of the step that no step writes
  (log 2). -/
  params : Config.Params
  deriving DecidableEq, Repr

/-- The state after initialisation (R36) of a machine with the parameters `ps`, with nothing listed in its
memory (log 1). -/
def State.powerOn (ps : Config.Params) : State where
  a := 0
  x := 0
  y := 0
  sp := 0
  pc := 0
  p := 0
  cyc := 0
  ea := 0
  eaAcc := false
  fault := none
  mem := []
  params := ps

/-- The machine right after reset (R36), under its own parameters (logs 2 and 3). -/
def State.reset : State := State.powerOn Config.params

end Sys2Proof.Machine
end

