-- ==== Sys2Proof/Machine/Ops.lean ====
section
/-! DEFINITION. The named operations over memory, addresses and the whole state: reading and writing a byte
(20_memory.md R51), address arithmetic (R53 to R55), taking a fault (60_exceptions.md R224) and
initialisation, the one operation that clears it (70_reset_and_hazards.md R240), fetching an instruction
(49_clock_dispatch.md R191), and the fetch pulse's common frame (R191, R196). -/

namespace Sys2Proof.Machine

/-! ## Memory -/

/-- What an address that memory does not list reads as (log 1). -/
def Memory.unlisted : Byte := 0

/-- The canonical form: addresses inside the space and strictly rising, and no entry equal to what an
unlisted address reads as. -/
abbrev Memory.wf (m : List Host.Cell) : Prop :=
  m.Pairwise (fun c d => c.1 < d.1) ∧ ∀ c ∈ m, c.1 < 65536 ∧ c.2 ≠ Memory.unlisted

/-- The byte memory holds at an address (R51). -/
def Memory.read (m : List Host.Cell) (a : Nat) : Byte :=
  match m.find? (fun c => c.1 == a) with
  | some c => c.2
  | none => Memory.unlisted

/-- Memory after the byte `v` is stored at an address (R51): every other cell stays. -/
def Memory.write (m : List Host.Cell) (a : Nat) (v : Byte) : List Host.Cell :=
  m.filter (fun c => c.1 < a) ++
    (if v = Memory.unlisted then [] else [(a, v)]) ++
    m.filter (fun c => a < c.1)

/-- `MemRead(a, 1)` (R51): no side effect, no fault (R223). -/
def State.memRead (s : State) (a : Word) : Byte :=
  Memory.read s.mem a.toNat

/-- `MemWrite(a, 1, v)` (R51): changes the byte at `a` and nothing else. -/
def State.memWrite (s : State) (a : Word) (v : Byte) : State :=
  { s with mem := Memory.write s.mem a.toNat v }

/-! ## Address arithmetic -/

/-- `AddrAdd(a, k)` (R53): the sum where it is an address, else its value modulo 65536 under `wrap16` and the
out-of-range integer as an error under `fault`. -/
def addrAdd (policy : Config.AddrOverflow) (a : Word) (k : Int) : Except Int Word :=
  let t : Int := a.toNat + k
  if 0 ≤ t ∧ t.toNat ≤ 65535 then
    .ok (BitVec.ofInt 16 t)
  else
    match policy with
    | .wrap16 => .ok (BitVec.ofInt 16 t)
    | .fault => .error t

/-- `AddrAdd(a, k)` under the machine's own `P_ADDR_OVERFLOW`. -/
def State.addrAdd (s : State) (a : Word) (k : Int) : Except Int Word :=
  Machine.addrAdd s.params.addrOverflow a k

/-- `Read16(a)` (R55): the low byte at `a`, the high byte at `AddrAdd(a, 1)`. -/
def State.read16 (s : State) (a : Word) : Except Int Word :=
  match s.addrAdd a 1 with
  | .ok a' => .ok (joinBytes (s.memRead a') (s.memRead a))
  | .error t => .error t

/-- The address of the first operand byte, `AddrAdd(PC, 1)` (30_encoding.md R73). -/
def State.operandAddr1 (s : State) : Except Int Word :=
  s.addrAdd s.pc 1

/-- The address of the second operand byte, one past the first through `AddrAdd` (R73, R55). -/
def State.operandAddr2 (s : State) : Except Int Word :=
  match s.operandAddr1 with
  | .ok a => s.addrAdd a 1
  | .error t => .error t

/-! ## Faults and initialisation -/

/-- Taking a fault (60_exceptions.md R224): every write of the pulse is undone, since `s` is the state before
it, and `FAULT` records the kind, the PC and the opcode (R221, R222). -/
def State.raise (s : State) (kind : FaultKind) (opcode : Byte) : State :=
  { s with fault := some { kind := kind, pc := s.pc, opcode := opcode } }

/-- Initialisation (70_reset_and_hazards.md R240): every register, flag and counter zero, `FAULT` cleared,
memory not touched. There is no other way back from a fault (R225, R229). -/
def State.initialise (s : State) : State :=
  { State.powerOn s.params with mem := s.mem }

/-! ## The clock -/

/-- The decrement of `CYC` that ends every pulse (49_clock_dispatch.md R195). -/
def State.tick (s : State) : State :=
  { s with cyc := s.cyc - 1 }

/-! ## Fetching an instruction -/

/-- The operand bytes an instruction of a format has after its opcode, read at PC+1 and PC+2 (R70, R73). -/
def State.fetchOperands (s : State) : Format → Except Int (List Byte)
  | .f1 => .ok []
  | .f2 =>
    match s.operandAddr1 with
    | .ok a => .ok [s.memRead a]
    | .error t => .error t
  | .f3 =>
    match s.operandAddr1 with
    | .ok a =>
      match s.addrAdd a 1 with
      | .ok b => .ok [s.memRead a, s.memRead b]
      | .error t => .error t
    | .error t => .error t

/-- Fetching the instruction at PC: the opcode byte, its descriptor, then its operand bytes (R191, R59). The
test for an unpopulated opcode comes before every address computation (60_exceptions.md R227). -/
def State.fetch (s : State) : Except FaultKind Instr :=
  match describe (s.memRead s.pc) with
  | none => .error .unimplementedOpcode
  | some d =>
    match s.fetchOperands d.mode.format with
    | .error t => .error (.addressOverflow t)
    | .ok operands =>
      match decode (s.memRead s.pc :: operands) with
      | .ok (i, _) => .ok i
      | .error _ => .error .unimplementedOpcode

/-! ## The fetch pulse -/

/-- What a resolver returns (40_addressing_modes.md R120): the values it writes to `EA` and `EA_ACC`, and its
page-cross result. -/
structure Resolved where
  ea : Word
  acc : Bool
  cross : Bool
  deriving DecidableEq, Repr

/-- The extra cycle of a page cross, added only for an eligible descriptor (49_clock_dispatch.md R192). -/
def penalty (d : Descriptor) (r : Resolved) : Int :=
  if d.pageCrossPenaltyEligible && r.cross then 1 else 0

/-- The state in which the executor runs: `CYC` set to the instruction's cost (R192), `EA` and `EA_ACC` set by
the resolver (10_state.md R30). -/
def State.resolved (s : State) (d : Descriptor) (r : Resolved) : State :=
  { s with cyc := d.baseCycles + penalty d r, ea := r.ea, eaAcc := r.acc }

/-- The fetch pulse of an instruction after the lookup (R191, R196): `CYC <- baseCycles`, resolve, penalty,
execute, PC advance, decrement. An address overflow in the resolver or at the PC advance discards the pulse and
records the fault (R224, R194). -/
def fetchPulse (d : Descriptor) (resolve : State → Except Int Resolved) (execute : State → State) (s : State) :
    Host.Outcome State Fault Refusal :=
  match resolve s with
  | .error t => .next (s.raise (.addressOverflow t) d.opcode)
  | .ok r =>
    let u := execute (s.resolved d r)
    match s.addrAdd s.pc d.length with
    | .error t => .next (s.raise (.addressOverflow t) d.opcode)
    | .ok pc' => .next (State.tick { u with pc := pc' })

/-- An executor that takes its operand from memory at `EA` (R59, access 3). -/
def onMemory (execute : Byte → State → State) (s : State) : State :=
  execute (s.memRead s.ea) s

/-! ## The host between pulses -/

/-- The host reads a byte of memory between pulses (60_exceptions.md R238, 20_memory.md R63). -/
def State.hostRead (s : State) (a : Word) : Byte := s.memRead a

/-- The host writes a byte of memory between pulses (R238, R63). -/
def State.hostWrite (s : State) (a : Word) (v : Byte) : State := s.memWrite a v

end Sys2Proof.Machine
end

