-- ==== Sys2Proof/Machine/Flags.lean ====
section
/-! DEFINITION. The flags of P (10_state.md R25) and the one primitive that writes them (R31). -/

namespace Sys2Proof.Machine

/-- The named flags of P (R25). -/
inductive Flag where
  | c
  | z
  | i
  | d
  | v
  | n
  deriving DecidableEq, Repr

/-- The bit of P a flag is (R25). -/
def flagBit : Flag → Nat
  | .c => 0
  | .z => 1
  | .i => 2
  | .d => 3
  | .v => 6
  | .n => 7

/-- A byte with bit `k` set to `b` and its other bits as they were. -/
def setBit (p : Byte) (k : Nat) (b : Bool) : Byte :=
  if b then p ||| (1#8 <<< k) else p &&& ~~~(1#8 <<< k)

/-- `P.f` (00_scope.md R11). -/
def State.flag (s : State) (f : Flag) : Bool :=
  s.p.getLsbD (flagBit f)

/-- The value `FlagWrite` gives a flag that holds `old`, for a condition `c` (R31). -/
def flagValue (policy : Config.FlagPolicy) (old c : Bool) : Bool :=
  match policy with
  | .setOnly => old || c
  | .clearThenSet => c

/-- `FlagWrite(f, c)` (R31): the flag `f` alone is written, under `P_FLAGS`. -/
def State.flagWrite (s : State) (f : Flag) (c : Bool) : State :=
  { s with p := setBit s.p (flagBit f) (flagValue s.params.flags (s.flag f) c) }

/-- Zero and Negative of a result byte: "sets Negative from A's high bit, Zero if A is 0" (42_load_store.md
R160, 43_logical.md R170, 44_shift.md R180). -/
def State.flagsNZ (s : State) (r : Byte) : State :=
  (s.flagWrite .n r.msb).flagWrite .z (r == 0)

/-- The carry that ADC adds (41_arithmetic.md R150, R152). -/
def State.adcCarry (s : State) : Nat :=
  match s.params.adcCarryIn with
  | .included => (s.flag .c).toNat
  | .ignored => 0

/-- ADC's Overflow condition (R150): equal operand signs and a different result sign. -/
def adcOverflow (a m r : Byte) : Bool :=
  a.msb == m.msb && r.msb != a.msb

/-- ADC's Negative condition (R150) under `P_ADC_N`. -/
def adcNegative (policy : Config.AdcNegative) (a m r : Byte) : Bool :=
  match policy with
  | .signsDiffer => a.msb != m.msb && r.msb
  | .resultBit7 => r.msb

end Sys2Proof.Machine
end

