-- ==== Sys2Proof/Machine/Operands.lean ====
section
/-! DEFINITION. The twelve addressing-mode resolvers (40_addressing_modes.md). A resolver takes the operand the
fetch read at PC+1 and PC+2 and still computes their addresses with `AddrAdd`, so that it raises what the
spec's resolver raises (log 7). -/

namespace Sys2Proof.Machine

/-- `zext_16(b)` (00_scope.md R10). -/
def zeroExtend16 (b : Byte) : Word := b.setWidth 16

/-- The signed value of an offset byte, `n - 256 * n[7]` (R133). -/
def signedOffset (n : Byte) : Int := n.toInt

/-- `Cross(b, i)` (R134): the index addition carries out of the low byte. -/
def pageCross (b : Word) (i : Byte) : Bool :=
  decide ((loByte b).toNat + i.toNat > 255)

/-- `ReadZP16(z)` (R121): the high byte is at `(z + 1) mod 256` under `wrap`, at `z + 1` under `linear`. -/
def State.readZp16 (s : State) (z : Byte) : Word :=
  let l := s.memRead (zeroExtend16 z)
  let h :=
    match s.params.zpPtrWrap with
    | .wrap => s.memRead (zeroExtend16 (z + 1))
    | .linear => s.memRead (zeroExtend16 z + 1)
  joinBytes h l

/-- The pointer of Indirect mode (R130): its second byte past the first, or on the first's page. -/
def State.readPointer (s : State) (p : Word) : Except Int Word :=
  match s.params.indPtrWrap with
  | .linear => s.read16 p
  | .pageWrap => .ok (joinBytes (s.memRead ((p &&& 0xFF00) ||| ((p + 1) &&& 0x00FF))) (s.memRead p))

/-- A resolver's result in a mode that never crosses a page. -/
def atAddress (ea : Word) : Resolved := { ea := ea, acc := false, cross := false }

/-- `Resolve_IMM` (R122): `EA` is the address of the operand byte. -/
def resolveImm (s : State) : Except Int Resolved :=
  match s.operandAddr1 with
  | .ok a => .ok (atAddress a)
  | .error t => .error t

/-- `Resolve_ACC` (R123): `EA <- PC`, `EA_ACC <- 1`. -/
def resolveAcc (s : State) : Except Int Resolved :=
  .ok { ea := s.pc, acc := true, cross := false }

/-- `Resolve_ZP` (R124). -/
def resolveZp (n : Byte) (s : State) : Except Int Resolved :=
  match s.operandAddr1 with
  | .ok _ => .ok (atAddress (zeroExtend16 n))
  | .error t => .error t

/-- `Resolve_ZPX` (R125): the sum wraps inside the zero page. -/
def resolveZpX (n : Byte) (s : State) : Except Int Resolved :=
  match s.operandAddr1 with
  | .ok _ => .ok (atAddress (zeroExtend16 (n + s.x)))
  | .error t => .error t

/-- `Resolve_ZPY` (R126): as `resolveZpX` with `Y`; no admitted opcode uses it (R136). -/
def resolveZpY (n : Byte) (s : State) : Except Int Resolved :=
  match s.operandAddr1 with
  | .ok _ => .ok (atAddress (zeroExtend16 (n + s.y)))
  | .error t => .error t

/-- `Resolve_ABS` (R127). -/
def resolveAbs (w : Word) (s : State) : Except Int Resolved :=
  match s.operandAddr2 with
  | .ok _ => .ok (atAddress w)
  | .error t => .error t

/-- A base word indexed through `AddrAdd`, with its page cross (R128, R129, R132, R134). -/
def State.indexed (s : State) (b : Word) (i : Byte) : Except Int Resolved :=
  match s.addrAdd b i.toNat with
  | .ok ea => .ok { ea := ea, acc := false, cross := pageCross b i }
  | .error t => .error t

/-- `Resolve_ABSX` (R128). -/
def resolveAbsX (w : Word) (s : State) : Except Int Resolved :=
  match s.operandAddr2 with
  | .ok _ => s.indexed w s.x
  | .error t => .error t

/-- `Resolve_ABSY` (R129). -/
def resolveAbsY (w : Word) (s : State) : Except Int Resolved :=
  match s.operandAddr2 with
  | .ok _ => s.indexed w s.y
  | .error t => .error t

/-- `Resolve_IND` (R130); no admitted opcode uses it (R136). -/
def resolveInd (w : Word) (s : State) : Except Int Resolved :=
  match s.operandAddr2 with
  | .ok _ =>
    match s.readPointer w with
    | .ok ea => .ok (atAddress ea)
    | .error t => .error t
  | .error t => .error t

/-- `Resolve_INDX` (R131): the pointer is at `(n + X) mod 256`. -/
def resolveIndX (n : Byte) (s : State) : Except Int Resolved :=
  match s.operandAddr1 with
  | .ok _ => .ok (atAddress (s.readZp16 (n + s.x)))
  | .error t => .error t

/-- `Resolve_INDY` (R132): the pointer at `n`, indexed by `Y` after it is read. -/
def resolveIndY (n : Byte) (s : State) : Except Int Resolved :=
  match s.operandAddr1 with
  | .ok _ => s.indexed (s.readZp16 n) s.y
  | .error t => .error t

/-- `Resolve_REL` (R133): the document's `PC + 1 + offset`; no admitted opcode uses it (R136). -/
def resolveRel (n : Byte) (s : State) : Except Int Resolved :=
  match s.operandAddr1 with
  | .ok _ =>
    match s.addrAdd s.pc (1 + signedOffset n) with
    | .ok ea => .ok (atAddress ea)
    | .error t => .error t
  | .error t => .error t

end Sys2Proof.Machine
end

