-- ==== Sys2Proof/Machine/Arithmetic.lean ====
section
/-! DEFINITION. ADC (41_arithmetic.md). -/

namespace Sys2Proof.Machine

/-- The ADC executor (R150) on the operand byte `m`. Every condition reads `A` before it is written, and
`P.C` only as the carry in; `P.D` is not read (R153). -/
def executeAdc (m : Byte) (s : State) : State :=
  let sum := s.a.toNat + m.toNat + s.adcCarry
  let r : Byte := BitVec.ofNat 8 sum
  { (((s.flagWrite .c (decide (sum > 255))).flagWrite .z (r == 0)).flagWrite .v
      (adcOverflow s.a m r)).flagWrite .n (adcNegative s.params.adcNegative s.a m r) with a := r }

/-- `ADC #$nn` (0x69; R122, R150). -/
def execAdcImm (n : Byte) (s : State) : Host.Outcome State Fault Refusal :=
  fetchPulse descAdcImm resolveImm (executeAdc n) s

/-- `ADC $nn` (0x65; R124, R150). -/
def execAdcZp (n : Byte) (s : State) : Host.Outcome State Fault Refusal :=
  fetchPulse descAdcZp (resolveZp n) (onMemory executeAdc) s

/-- `ADC $nn,X` (0x75; R125, R150). -/
def execAdcZpX (n : Byte) (s : State) : Host.Outcome State Fault Refusal :=
  fetchPulse descAdcZpX (resolveZpX n) (onMemory executeAdc) s

/-- `ADC $nnnn` (0x6D; R127, R150). -/
def execAdcAbs (w : Word) (s : State) : Host.Outcome State Fault Refusal :=
  fetchPulse descAdcAbs (resolveAbs w) (onMemory executeAdc) s

/-- `ADC $nnnn,X` (0x7D; R128, R150). -/
def execAdcAbsX (w : Word) (s : State) : Host.Outcome State Fault Refusal :=
  fetchPulse descAdcAbsX (resolveAbsX w) (onMemory executeAdc) s

/-- `ADC $nnnn,Y` (0x79; R129, R150). -/
def execAdcAbsY (w : Word) (s : State) : Host.Outcome State Fault Refusal :=
  fetchPulse descAdcAbsY (resolveAbsY w) (onMemory executeAdc) s

/-- `ADC ($nn,X)` (0x61; R131, R150). -/
def execAdcIndX (n : Byte) (s : State) : Host.Outcome State Fault Refusal :=
  fetchPulse descAdcIndX (resolveIndX n) (onMemory executeAdc) s

/-- `ADC ($nn),Y` (0x71; R132, R150). -/
def execAdcIndY (n : Byte) (s : State) : Host.Outcome State Fault Refusal :=
  fetchPulse descAdcIndY (resolveIndY n) (onMemory executeAdc) s

end Sys2Proof.Machine
end

