-- ==== Sys2Proof/Machine/LoadStore.lean ====
section
/-! DEFINITION. LDA and STA (42_load_store.md). -/

namespace Sys2Proof.Machine

/-- The LDA executor (R160) on the operand byte `m`. -/
def executeLda (m : Byte) (s : State) : State :=
  State.flagsNZ { s with a := m } m

/-- The STA executor (R161): no flag, no data read. -/
def executeSta (s : State) : State :=
  s.memWrite s.ea s.a

/-- `LDA #$nn` (0xA9; R122, R160). -/
def execLdaImm (n : Byte) (s : State) : Host.Outcome State Fault Refusal :=
  fetchPulse descLdaImm resolveImm (executeLda n) s

/-- `LDA $nn` (0xA5; R124, R160). -/
def execLdaZp (n : Byte) (s : State) : Host.Outcome State Fault Refusal :=
  fetchPulse descLdaZp (resolveZp n) (onMemory executeLda) s

/-- `LDA $nn,X` (0xB5; R125, R160). -/
def execLdaZpX (n : Byte) (s : State) : Host.Outcome State Fault Refusal :=
  fetchPulse descLdaZpX (resolveZpX n) (onMemory executeLda) s

/-- `LDA $nnnn` (0xAD; R127, R160). -/
def execLdaAbs (w : Word) (s : State) : Host.Outcome State Fault Refusal :=
  fetchPulse descLdaAbs (resolveAbs w) (onMemory executeLda) s

/-- `LDA $nnnn,X` (0xBD; R128, R160). -/
def execLdaAbsX (w : Word) (s : State) : Host.Outcome State Fault Refusal :=
  fetchPulse descLdaAbsX (resolveAbsX w) (onMemory executeLda) s

/-- `LDA $nnnn,Y` (0xB9; R129, R160). -/
def execLdaAbsY (w : Word) (s : State) : Host.Outcome State Fault Refusal :=
  fetchPulse descLdaAbsY (resolveAbsY w) (onMemory executeLda) s

/-- `LDA ($nn,X)` (0xA1; R131, R160). -/
def execLdaIndX (n : Byte) (s : State) : Host.Outcome State Fault Refusal :=
  fetchPulse descLdaIndX (resolveIndX n) (onMemory executeLda) s

/-- `LDA ($nn),Y` (0xB1; R132, R160). -/
def execLdaIndY (n : Byte) (s : State) : Host.Outcome State Fault Refusal :=
  fetchPulse descLdaIndY (resolveIndY n) (onMemory executeLda) s

/-- `STA $nn` (0x85; R124, R161). -/
def execStaZp (n : Byte) (s : State) : Host.Outcome State Fault Refusal :=
  fetchPulse descStaZp (resolveZp n) executeSta s

/-- `STA $nn,X` (0x95; R125, R161). -/
def execStaZpX (n : Byte) (s : State) : Host.Outcome State Fault Refusal :=
  fetchPulse descStaZpX (resolveZpX n) executeSta s

/-- `STA $nnnn` (0x8D; R127, R161). -/
def execStaAbs (w : Word) (s : State) : Host.Outcome State Fault Refusal :=
  fetchPulse descStaAbs (resolveAbs w) executeSta s

/-- `STA $nnnn,X` (0x9D; R128, R161). -/
def execStaAbsX (w : Word) (s : State) : Host.Outcome State Fault Refusal :=
  fetchPulse descStaAbsX (resolveAbsX w) executeSta s

/-- `STA $nnnn,Y` (0x99; R129, R161). -/
def execStaAbsY (w : Word) (s : State) : Host.Outcome State Fault Refusal :=
  fetchPulse descStaAbsY (resolveAbsY w) executeSta s

/-- `STA ($nn,X)` (0x81; R131, R161). -/
def execStaIndX (n : Byte) (s : State) : Host.Outcome State Fault Refusal :=
  fetchPulse descStaIndX (resolveIndX n) executeSta s

/-- `STA ($nn),Y` (0x91; R132, R161). -/
def execStaIndY (n : Byte) (s : State) : Host.Outcome State Fault Refusal :=
  fetchPulse descStaIndY (resolveIndY n) executeSta s

end Sys2Proof.Machine
end

