-- ==== Sys2Proof/Machine/Logical.lean ====
section
/-! DEFINITION. AND (43_logical.md). -/

namespace Sys2Proof.Machine

/-- The AND executor (R170) on the operand byte `m`. -/
def executeAnd (m : Byte) (s : State) : State :=
  let r := s.a &&& m
  State.flagsNZ { s with a := r } r

/-- `AND #$nn` (0x29; R122, R170). -/
def execAndImm (n : Byte) (s : State) : Host.Outcome State Fault Refusal :=
  fetchPulse descAndImm resolveImm (executeAnd n) s

/-- `AND $nn` (0x25; R124, R170). -/
def execAndZp (n : Byte) (s : State) : Host.Outcome State Fault Refusal :=
  fetchPulse descAndZp (resolveZp n) (onMemory executeAnd) s

/-- `AND $nn,X` (0x35; R125, R170). -/
def execAndZpX (n : Byte) (s : State) : Host.Outcome State Fault Refusal :=
  fetchPulse descAndZpX (resolveZpX n) (onMemory executeAnd) s

/-- `AND $nnnn` (0x2D; R127, R170). -/
def execAndAbs (w : Word) (s : State) : Host.Outcome State Fault Refusal :=
  fetchPulse descAndAbs (resolveAbs w) (onMemory executeAnd) s

/-- `AND $nnnn,X` (0x3D; R128, R170). -/
def execAndAbsX (w : Word) (s : State) : Host.Outcome State Fault Refusal :=
  fetchPulse descAndAbsX (resolveAbsX w) (onMemory executeAnd) s

/-- `AND $nnnn,Y` (0x39; R129, R170). -/
def execAndAbsY (w : Word) (s : State) : Host.Outcome State Fault Refusal :=
  fetchPulse descAndAbsY (resolveAbsY w) (onMemory executeAnd) s

/-- `AND ($nn,X)` (0x21; R131, R170). -/
def execAndIndX (n : Byte) (s : State) : Host.Outcome State Fault Refusal :=
  fetchPulse descAndIndX (resolveIndX n) (onMemory executeAnd) s

/-- `AND ($nn),Y` (0x31; R132, R170). -/
def execAndIndY (n : Byte) (s : State) : Host.Outcome State Fault Refusal :=
  fetchPulse descAndIndY (resolveIndY n) (onMemory executeAnd) s

end Sys2Proof.Machine
end

