-- ==== Sys2Proof/Machine/Shift.lean ====
section
/-! DEFINITION. ASL (44_shift.md). -/

namespace Sys2Proof.Machine

/-- The flags of a shift left of `v` (R180): Carry is the bit shifted out, Zero and Negative the result's. -/
def State.aslFlags (s : State) (v : Byte) : State :=
  (s.flagWrite .c v.msb).flagsNZ (v <<< 1)

/-- The ASL executor (R180): on `A` when `EA_ACC` is 1, else on the byte at `EA`, whose result goes where
`P_ASL_DEST` says (R181). -/
def executeAsl (s : State) : State :=
  let v := if s.eaAcc then s.a else s.memRead s.ea
  let r := v <<< 1
  let u := s.aslFlags v
  if s.eaAcc then
    { u with a := r }
  else
    match s.params.aslDest with
    | .accumulator => { u with a := r }
    | .source => u.memWrite s.ea r

/-- `ASL A` (0x0A; R123, R180). -/
def execAslAcc (s : State) : Host.Outcome State Fault Refusal :=
  fetchPulse descAslAcc resolveAcc executeAsl s

/-- `ASL $nn` (0x06; R124, R180). -/
def execAslZp (n : Byte) (s : State) : Host.Outcome State Fault Refusal :=
  fetchPulse descAslZp (resolveZp n) executeAsl s

/-- `ASL $nn,X` (0x16; R125, R180). -/
def execAslZpX (n : Byte) (s : State) : Host.Outcome State Fault Refusal :=
  fetchPulse descAslZpX (resolveZpX n) executeAsl s

/-- `ASL $nnnn` (0x0E; R127, R180). -/
def execAslAbs (w : Word) (s : State) : Host.Outcome State Fault Refusal :=
  fetchPulse descAslAbs (resolveAbs w) executeAsl s

/-- `ASL $nnnn,X` (0x1E; R128, R180). -/
def execAslAbsX (w : Word) (s : State) : Host.Outcome State Fault Refusal :=
  fetchPulse descAslAbsX (resolveAbsX w) executeAsl s

end Sys2Proof.Machine
end

