-- ==== Sys2Proof/Machine/Dispatch.lean ====
section
/-! DEFINITION. One arm per instruction (49_clock_dispatch.md R203). -/

namespace Sys2Proof.Machine

def exec (i : Instr) (s : State) : Host.Outcome State Fault Refusal :=
  match i with
  | .adcImm n => Sys2Proof.Machine.execAdcImm n s
  | .adcZp n => Sys2Proof.Machine.execAdcZp n s
  | .adcZpX n => Sys2Proof.Machine.execAdcZpX n s
  | .adcAbs w => Sys2Proof.Machine.execAdcAbs w s
  | .adcAbsX w => Sys2Proof.Machine.execAdcAbsX w s
  | .adcAbsY w => Sys2Proof.Machine.execAdcAbsY w s
  | .adcIndX n => Sys2Proof.Machine.execAdcIndX n s
  | .adcIndY n => Sys2Proof.Machine.execAdcIndY n s
  | .andImm n => Sys2Proof.Machine.execAndImm n s
  | .andZp n => Sys2Proof.Machine.execAndZp n s
  | .andZpX n => Sys2Proof.Machine.execAndZpX n s
  | .andAbs w => Sys2Proof.Machine.execAndAbs w s
  | .andAbsX w => Sys2Proof.Machine.execAndAbsX w s
  | .andAbsY w => Sys2Proof.Machine.execAndAbsY w s
  | .andIndX n => Sys2Proof.Machine.execAndIndX n s
  | .andIndY n => Sys2Proof.Machine.execAndIndY n s
  | .ldaImm n => Sys2Proof.Machine.execLdaImm n s
  | .ldaZp n => Sys2Proof.Machine.execLdaZp n s
  | .ldaZpX n => Sys2Proof.Machine.execLdaZpX n s
  | .ldaAbs w => Sys2Proof.Machine.execLdaAbs w s
  | .ldaAbsX w => Sys2Proof.Machine.execLdaAbsX w s
  | .ldaAbsY w => Sys2Proof.Machine.execLdaAbsY w s
  | .ldaIndX n => Sys2Proof.Machine.execLdaIndX n s
  | .ldaIndY n => Sys2Proof.Machine.execLdaIndY n s
  | .staZp n => Sys2Proof.Machine.execStaZp n s
  | .staZpX n => Sys2Proof.Machine.execStaZpX n s
  | .staAbs w => Sys2Proof.Machine.execStaAbs w s
  | .staAbsX w => Sys2Proof.Machine.execStaAbsX w s
  | .staAbsY w => Sys2Proof.Machine.execStaAbsY w s
  | .staIndX n => Sys2Proof.Machine.execStaIndX n s
  | .staIndY n => Sys2Proof.Machine.execStaIndY n s
  | .aslAcc => Sys2Proof.Machine.execAslAcc s
  | .aslZp n => Sys2Proof.Machine.execAslZp n s
  | .aslZpX n => Sys2Proof.Machine.execAslZpX n s
  | .aslAbs w => Sys2Proof.Machine.execAslAbs w s
  | .aslAbsX w => Sys2Proof.Machine.execAslAbsX w s

end Sys2Proof.Machine
end

