-- ==== Sys2Proof/Machine/Step.lean ====
section
/-! DEFINITION. One pulse of the clock engine (49_clock_dispatch.md R191), and placing an instruction where the
next pulse fetches it. -/

namespace Sys2Proof.Machine

/-- One pulse (R191): none in a faulted state (60_exceptions.md R225); a fetch pulse when Idle, `CYC <= 0`; else
the decrement alone (R195). A failed fetch discards the pulse and records its fault (R221, R222, R224). -/
def step (s : State) : Host.Outcome State Fault Refusal :=
  match s.fault with
  | some r => .fault (.halted r)
  | none =>
    if s.cyc ≤ 0 then
      match s.fetch with
      | .ok i => exec i s
      | .error kind => .next (s.raise kind (s.memRead s.pc))
    else
      .next s.tick

/-- `s` with the instruction of an opcode-table word stored at PC, PC+1 and PC+2, Idle and not faulted, so that
the next pulse fetches it (log 6). -/
def State.withFetchWord (s : State) (nbits w : Nat) : State :=
  let u : State := { s with cyc := if s.cyc ≤ 0 then s.cyc else 0, fault := none }
  match tableWindow nbits w with
  | [op, l, h] => ((u.memWrite s.pc op).memWrite (s.pc + 1) l).memWrite (s.pc + 2) h
  | _ => u

end Sys2Proof.Machine
end

