-- ==== Sys2Proof/Machine/Clock.lean ====
section
/-! DEFINITION. What is made of pulses: the instruction step (49_clock_dispatch.md R198), and a run from a launch
state to its stop address (R202, 10_state.md R37). -/

namespace Sys2Proof.Machine

/-! ## The instruction step -/

/-- An instruction boundary: Idle, with no fault recorded (00_scope.md R13). These are the launch states of
10_state.md R37, the initial state among them (R36). -/
abbrev State.AtBoundary (s : State) : Prop := s.cyc ≤ 0 ∧ s.fault = none

/-- Pulses while the core is Executing and not faulted, at most `k` of them. -/
def pulseUntilIdle : Nat → State → Host.Outcome State Fault Refusal
  | 0, s => .next s
  | k + 1, s =>
    if 0 < s.cyc ∧ s.fault = none then
      match step s with
      | .next t => pulseUntilIdle k t
      | .fault r => .fault r
      | .refused r => .refused r
    else
      .next s

/-- `StepInstr` (R198): one pulse, then pulses until `CYC` is back at 0. The bound is the `CYC` the first pulse
leaves, which is how many pulses remain (R195). -/
def stepInstr (s : State) : Host.Outcome State Fault Refusal :=
  match step s with
  | .next t => pulseUntilIdle t.cyc.toNat t
  | .fault r => .fault r
  | .refused r => .refused r

/-! ## A run -/

/-- A state a run with the stop address `stop` can end in: a boundary with `PC = stop` (R202). -/
abbrev State.EndOfRun (stop : Word) (s : State) : Prop := s.AtBoundary ∧ s.pc = stop

/-- A state of a failed run: a fault is recorded (R202, R225). -/
abbrev State.Failed (s : State) : Prop := s.fault ≠ none

/-- `k` pulses, with no host write between them (log 5), lead from `s` to `t`, and no state before `t` is an end
of the run. The launch state is the first boundary looked at (log 12). -/
def RunReaches (stop : Word) (s : State) (k : Nat) (t : State) : Prop :=
  s.AtBoundary ∧ Host.Core.run Sys2Proof.core k s = .next t ∧
    ∀ (j : Nat) (u : State), j < k → Host.Core.run Sys2Proof.core j s = .next u → ¬ u.EndOfRun stop

/-- The run from the launch state `s` ends after `k` pulses in `t`, the FIRST boundary with `PC = stop` (R202):
PC may come back to `stop` later, which is no part of this run. -/
def RunEnds (stop : Word) (s : State) (k : Nat) (t : State) : Prop :=
  RunReaches stop s k t ∧ t.EndOfRun stop

/-- The run from the launch state `s` fails: its `k`-th pulse records a fault before any end (R202, R225). -/
def RunFails (stop : Word) (s : State) (k : Nat) (t : State) : Prop :=
  RunReaches stop s k t ∧ t.Failed

/-- How a run stands: ended, failed, or to be pulsed further. -/
inductive RunResult where
  | ended (t : State)
  | failed (t : State)
  | running (t : State)
  deriving DecidableEq, Repr

/-- How a run with the stop address `stop` stands in a state (R202). -/
def State.runStatus (stop : Word) (s : State) : RunResult :=
  if s.EndOfRun stop then .ended s
  else if s.Failed then .failed s
  else .running s

/-- A run of at most `n` pulses: it is pulsed until it has ended or failed (R202). -/
def runTo (stop : Word) : Nat → State → RunResult
  | 0, s => s.runStatus stop
  | n + 1, s =>
    match s.runStatus stop with
    | .ended t => .ended t
    | .failed t => .failed t
    | .running _ =>
      match step s with
      | .next t => runTo stop n t
      | .fault _ => .failed s
      | .refused _ => .failed s

end Sys2Proof.Machine
end

