-- ==== Sys2Proof/Safety.lean ====
section
/-! DEFINITION. The terms claims are stated in: the address, operand value and cost an instruction has in a state
written out from 40_addressing_modes.md and 49_clock_dispatch.md R192, when no address of it overflows
(20_memory.md R53), and the invariants a run keeps. -/

namespace Sys2Proof.Machine

/-- The operand of an instruction as a word, an operand byte zero-extended (30_encoding.md R73). -/
def Operand.asWord : Operand → Word
  | .none => 0
  | .byte n => zeroExtend16 n
  | .word w => w

/-- The base word and the index of a mode that indexes through `AddrAdd` (R128, R129, R132), for the operand
word `b`. -/
def indexTerms (s : State) (b : Word) : Mode → Option (Word × Byte)
  | .absoluteX => some (b, s.x)
  | .absoluteY => some (b, s.y)
  | .indirectY => some (s.readZp16 (loByte b), s.y)
  | .immediate => none
  | .accumulator => none
  | .zeroPage => none
  | .zeroPageX => none
  | .zeroPageY => none
  | .absolute => none
  | .indirect => none
  | .indirectX => none
  | .relative => none

/-- The address a mode gives for the operand word `b` where no address overflows, or modulo 65536 under
`wrap16` (R122 to R133). -/
def modeAddress (s : State) (b : Word) : Mode → Word
  | .immediate => s.pc + 1
  | .accumulator => s.pc
  | .zeroPage => b
  | .zeroPageX => zeroExtend16 (loByte b + s.x)
  | .zeroPageY => zeroExtend16 (loByte b + s.y)
  | .absolute => b
  | .absoluteX => b + zeroExtend16 s.x
  | .absoluteY => b + zeroExtend16 s.y
  | .indirect =>
    match s.params.indPtrWrap with
    | .linear => joinBytes (s.memRead (b + 1)) (s.memRead b)
    | .pageWrap => joinBytes (s.memRead (joinBytes (hiByte b) (loByte b + 1))) (s.memRead b)
  | .indirectX => s.readZp16 (loByte b + s.x)
  | .indirectY => s.readZp16 (loByte b) + zeroExtend16 s.y
  | .relative => s.pc + 1 + (loByte b).signExtend 16

/-- The effective address of an instruction in a state (10_state.md R30). -/
def effectiveAddress (i : Instr) (s : State) : Word :=
  modeAddress s (Operand.asWord i.operand) i.mode

/-- The unbounded sum of base and index (R53), 0 in a mode without one. -/
def indexSum (i : Instr) (s : State) : Nat :=
  match indexTerms s (Operand.asWord i.operand) i.mode with
  | some (b, k) => b.toNat + k.toNat
  | none => 0

/-- Whether the resolver reports a page cross (R134, R135). -/
def crossesPage (i : Instr) (s : State) : Bool :=
  match indexTerms s (Operand.asWord i.operand) i.mode with
  | some (b, k) => pageCross b k
  | none => false

/-- The total cost of an instruction in pulses (R192). -/
def cost (i : Instr) (s : State) : Int :=
  i.descriptor.baseCycles + (if i.descriptor.pageCrossPenaltyEligible && crossesPage i s then 1 else 0)

/-- The byte an instruction operates on: its operand byte (Immediate), `A` (Accumulator), else the byte at its
effective address. -/
def operandValue (i : Instr) (s : State) : Byte :=
  match i.mode with
  | .immediate => loByte (Operand.asWord i.operand)
  | .accumulator => s.a
  | .zeroPage => s.memRead (effectiveAddress i s)
  | .zeroPageX => s.memRead (effectiveAddress i s)
  | .zeroPageY => s.memRead (effectiveAddress i s)
  | .absolute => s.memRead (effectiveAddress i s)
  | .absoluteX => s.memRead (effectiveAddress i s)
  | .absoluteY => s.memRead (effectiveAddress i s)
  | .indirect => s.memRead (effectiveAddress i s)
  | .indirectX => s.memRead (effectiveAddress i s)
  | .indirectY => s.memRead (effectiveAddress i s)
  | .relative => s.memRead (effectiveAddress i s)

/-- No address computation of the instruction overflows: under `wrap16` none can (R53), under `fault` the PC
advance (R194), which passes every operand byte, and the indexed sum stay at or below 0xFFFF. -/
abbrev AddressesInRange (i : Instr) (s : State) : Prop :=
  s.params.addrOverflow = .wrap16 ∨ (s.pc.toNat + i.length ≤ 65535 ∧ indexSum i s ≤ 65535)

/-- What every completed instruction leaves (R191, R193, R195, R30): PC past it, `CYC` one below its cost, `EA`
and `EA_ACC` the resolver's, and the registers no instruction writes, the fault record and the parameters as
they were. -/
structure Completed (i : Instr) (s t : State) : Prop where
  pc : t.pc = s.pc + BitVec.ofNat 16 i.length
  cyc : t.cyc = cost i s - 1
  ea : t.ea = effectiveAddress i s
  eaAcc : t.eaAcc = (i.mode == .accumulator)
  x : t.x = s.x
  y : t.y = s.y
  sp : t.sp = s.sp
  fault : t.fault = s.fault
  params : t.params = s.params

/-- The range `CYC` has from the initial state (10_state.md R29). -/
abbrev State.ClockInRange (s : State) : Prop := 0 ≤ s.cyc ∧ s.cyc ≤ 6

end Sys2Proof.Machine
end

