-- ==== Sys2Proof/Certificates/Slice0/Obligations.lean ====
section
/-! DEFINITION. The statements for the provers, from the numbered rules of spec/. `Sys2Proof.Claims` holds the
few terms several of them share. -/

namespace Sys2Proof.Claims

open Sys2Proof.Machine

/-- What bit `k` of P holds after an instruction that writes it for the condition `c` (10_state.md R31). -/
def flagAfter (s : State) (k : Nat) (c : Bool) : Bool :=
  match s.params.flags with
  | .setOnly => s.p.getLsbD k || c
  | .clearThenSet => c

/-- Every bit of P outside `written` is as it was. -/
def StatusKept (s t : State) (written : List Nat) : Prop :=
  ∀ k, k ∉ written → t.p.getLsbD k = s.p.getLsbD k

/-- The registers and parameters no instruction writes. -/
def UnwrittenKept (s t : State) : Prop :=
  t.x = s.x ∧ t.y = s.y ∧ t.sp = s.sp ∧ t.params = s.params

/-- The opcode bytes of an instruction with their modes are exactly those listed. -/
def Encodings (m : Mnemonic) (rows : List (Byte × Mode)) : Prop :=
  ∀ op md, (∃ d, describe op = some d ∧ d.instr = m ∧ d.mode = md) ↔ (op, md) ∈ rows

/-- The opcode bytes of ASL with their modes (44_shift.md R180). -/
def aslEncodings : List (Byte × Mode) :=
  [(0x0A, .accumulator), (0x06, .zeroPage), (0x16, .zeroPageX), (0x0E, .absolute), (0x1E, .absoluteX)]

/-- The bytes at PC, PC+1 and PC+2, addresses modulo 65536. -/
def window (s : State) : List Byte :=
  [s.memRead s.pc, s.memRead (s.pc + 1), s.memRead (s.pc + 2)]

/-- The operand byte of an F2 instruction, `MemRead(AddrAdd(PC, 1), 1)` (30_encoding.md R73). -/
def operandByteRead (s : State) : Except Int Byte :=
  match s.addrAdd s.pc 1 with
  | .ok a => .ok (s.memRead a)
  | .error t => .error t

/-- The operand word of an F3 instruction, `Read16(AddrAdd(PC, 1))` (R73). -/
def operandWordRead (s : State) : Except Int Word :=
  match s.addrAdd s.pc 1 with
  | .ok a => s.read16 a
  | .error t => .error t

/-- The result of indexing a base through `AddrAdd` (R128, R129, R132), the page cross being the carry out of
the low byte (R134). -/
def indexedResult (s : State) (b : Word) (i : Byte) : Except Int Resolved :=
  match s.addrAdd b i.toNat with
  | .ok ea => .ok { ea := ea, acc := false, cross := decide (b.toNat % 256 + i.toNat > 255) }
  | .error t => .error t

/-- The resolver reports no accumulator operand and no page cross. -/
def plainResult (ea : Word) : Resolved := { ea := ea, acc := false, cross := false }

/-- The base cycle counts by instruction and mode, from the table of 70_reset_and_hazards.md R246 (`none` where
it has none). -/
def cycleTable : Mnemonic → Mode → Option Nat
  | .sta, .zeroPage => some 3
  | .sta, .zeroPageX => some 4
  | .sta, .absolute => some 4
  | .sta, .absoluteX => some 5
  | .sta, .absoluteY => some 5
  | .sta, .indirectX => some 6
  | .sta, .indirectY => some 6
  | .sta, _ => none
  | .asl, .accumulator => some 2
  | .asl, .zeroPage => some 5
  | .asl, .zeroPageX => some 6
  | .asl, .absolute => some 6
  | .asl, .absoluteX => some 7
  | .asl, _ => none
  | _, .immediate => some 2
  | _, .zeroPage => some 3
  | _, .zeroPageX => some 4
  | _, .absolute => some 4
  | _, .absoluteX => some 4
  | _, .absoluteY => some 4
  | _, .indirectX => some 6
  | _, .indirectY => some 5
  | _, _ => none

/-- The instructions whose meaning stores nothing in a state with the parameters of `s`: all but STA and a
memory-mode ASL under `P_ASL_DEST = source` (42_load_store.md R161, 44_shift.md R180). -/
abbrev storesNothing (i : Instr) (s : State) : Prop :=
  i.mnemonic ≠ .sta ∧ ¬ (i.mnemonic = .asl ∧ i.mode ≠ .accumulator ∧ s.params.aslDest = .source)

/-- `s` with another stack pointer and other bits 2 to 5 of P. -/
def withUnread (s : State) (sp q : Byte) : State :=
  { s with sp := sp, p := (s.p &&& 0xC3) ||| (q &&& 0x3C) }

end Sys2Proof.Claims

open Sys2Proof Sys2Proof.Machine Sys2Proof.Claims

/-! ## Encoding -/

/-- Decoding the bytes of an instruction, whatever follows them, gives it back with every operand
(30_encoding.md R70 to R73). It holds of every instruction, and every instruction is well formed. -/
def Obligations.DecodeOfEncodeReturnsTheInstruction : Prop :=
  ∀ (i : Instr) (rest : List Byte),
    i.wellFormed = true ∧ decode (encode i ++ rest) = .ok (i, rest)

/-- Whatever decodes to an instruction is that instruction's own encoding followed by the rest, so that no two
byte sequences of one length decode to one instruction (R70, R77). -/
def Obligations.EncodeOfDecodeReturnsTheBytes : Prop :=
  ∀ (bytes rest : List Byte) (i : Instr), decode bytes = .ok (i, rest) → bytes = encode i ++ rest

/-- Instruction words written out from the spec's encodings (R78's examples and one word for each instruction
and format) decode to the instructions they stand for. -/
def Obligations.SampleWordsDecode : Prop :=
  decode [0b10101001, 0x70] = .ok (.ldaImm 0x70, []) ∧
  decode [0b00001010] = .ok (.aslAcc, []) ∧
  decode [0b10000101, 0x10] = .ok (.staZp 0x10, []) ∧
  decode [0b10110101, 0x10] = .ok (.ldaZpX 0x10, []) ∧
  decode [0b10001101, 0x00, 0x02] = .ok (.staAbs 0x0200, []) ∧
  decode [0b10111101, 0xFF, 0x20] = .ok (.ldaAbsX 0x20FF, []) ∧
  decode [0b01111001, 0x00, 0x03] = .ok (.adcAbsY 0x0300, []) ∧
  decode [0b10100001, 0x20] = .ok (.ldaIndX 0x20, []) ∧
  decode [0b10010001, 0x20] = .ok (.staIndY 0x20, []) ∧
  decode [0b00111101, 0xFC, 0x02] = .ok (.andAbsX 0x02FC, []) ∧
  decode [0b00011110, 0x00, 0x03] = .ok (.aslAbsX 0x0300, [])

/-- The populated opcode bytes are exactly the 36 of R72; the other 220 are UNPOPULATED (R75, R76). -/
def Obligations.ThirtySixOpcodesArePopulated : Prop :=
  ∀ op : Byte, (describe op).isSome = true ↔
    op ∈ ([0x69, 0x65, 0x75, 0x6D, 0x7D, 0x79, 0x61, 0x71, 0x29, 0x25, 0x35, 0x2D, 0x3D, 0x39, 0x21, 0x31,
      0xA9, 0xA5, 0xB5, 0xAD, 0xBD, 0xB9, 0xA1, 0xB1, 0x85, 0x95, 0x8D, 0x9D, 0x99, 0x81, 0x91,
      0x0A, 0x06, 0x16, 0x0E, 0x1E] : List Byte)

/-- Every descriptor stands at its opcode byte, has the length of its mode's format (R70), the base cycles of the
table by mode (70_reset_and_hazards.md R246), and is penalty-eligible exactly for ADC, AND and LDA in a mode that
can cross a page. -/
def Obligations.DescriptorsFollowTheModeTables : Prop :=
  ∀ (op : Byte) (d : Descriptor), describe op = some d →
    d.opcode = op ∧ d.length = d.mode.format.length ∧ cycleTable d.instr d.mode = some d.baseCycles ∧
    d.pageCrossPenaltyEligible = (d.mode.canCross && d.instr != .sta && d.instr != .asl)

/-! ## Initialisation -/

/-- The state after initialisation (10_state.md R36): every register, flag and counter zero, no fault recorded.
That EA, EA_ACC and FAULT start so is the spec's own decision (D16, D17); that memory lists nothing is the model's
choice (log 1), and the last three parameters hold the defaults of R9 (log 3). -/
def Obligations.ResetHoldsThePowerOnValues : Prop :=
  State.reset.a = 0 ∧ State.reset.x = 0 ∧ State.reset.y = 0 ∧ State.reset.sp = 0 ∧ State.reset.pc = 0 ∧
  State.reset.p = 0 ∧ State.reset.cyc = 0 ∧ State.reset.ea = 0 ∧ State.reset.eaAcc = false ∧
  State.reset.fault = none ∧ State.reset.mem = [] ∧
  State.reset.params.addrOverflow = .fault ∧ State.reset.params.zpPtrWrap = .wrap ∧
  State.reset.params.indPtrWrap = .linear

/-- Initialisation of any state, faulted or not, gives the power-on registers, clears FAULT, does not touch
memory, and has the same effect again (70_reset_and_hazards.md R240); of the reset state it changes nothing. -/
def Obligations.InitialiseClearsAllButMemory : Prop :=
  (∀ s : State, s.initialise.fault = none ∧ s.initialise.mem = s.mem ∧ s.initialise.params = s.params ∧
    s.initialise.AtBoundary ∧
    s.initialise = { State.powerOn s.params with mem := s.mem } ∧ s.initialise.initialise = s.initialise) ∧
  State.reset.initialise = State.reset

/-! ## Memory and addresses -/

/-- A host write between pulses changes the one byte it names and nothing else of the machine, and a read gives
the byte last written (20_memory.md R51, R63). -/
def Obligations.HostWriteChangesOneByte : Prop :=
  ∀ (s : State) (a b : Word) (v : Byte),
    (s.hostWrite a v).hostRead b = (if b = a then v else s.hostRead b) ∧
    { s.hostWrite a v with mem := s.mem } = s

/-- AddrAdd (R53): the sum where it is an address; outside the space the sum modulo 65536 under wrap16, the
overflow with the unbounded sum under fault. -/
def Obligations.AddrAddGivesTheSumWrapsOrRaises : Prop :=
  ∀ (p : Config.AddrOverflow) (a : Word) (k : Int),
    if 0 ≤ (a.toNat : Int) + k ∧ (a.toNat : Int) + k ≤ 0xFFFF then
      ∃ w, addrAdd p a k = .ok w ∧ (w.toNat : Int) = a.toNat + k
    else if p = .wrap16 then
      ∃ w, addrAdd p a k = .ok w ∧ (w.toNat : Int) = (a.toNat + k) % 65536
    else
      addrAdd p a k = .error (a.toNat + k)

/-- Read16 (R55): the low byte at `a`, the high byte at AddrAdd(a, 1), whose overflow it passes on. -/
def Obligations.ReadSixteenIsLittleEndian : Prop :=
  ∀ (s : State) (a : Word),
    match s.addrAdd a 1 with
    | .ok b => ∃ w, s.read16 a = .ok w ∧ w.toNat = (s.memRead b).toNat * 256 + (s.memRead a).toNat
    | .error t => s.read16 a = .error t

/-- ReadZP16 (40_addressing_modes.md R121): the low byte at `z`, the high byte at `(z + 1) mod 256` under wrap and
at `z + 1` under linear; the two differ only at 0xFF, where linear reads 0x0100. -/
def Obligations.ZeroPagePointerWrapsByParameter : Prop :=
  ∀ (s : State) (z : Byte),
    (s.params.zpPtrWrap = .wrap →
      (s.readZp16 z).toNat =
        (Memory.read s.mem ((z.toNat + 1) % 256)).toNat * 256 + (Memory.read s.mem z.toNat).toNat) ∧
    (s.params.zpPtrWrap = .linear →
      (s.readZp16 z).toNat =
        (Memory.read s.mem (z.toNat + 1)).toNat * 256 + (Memory.read s.mem z.toNat).toNat)

/-- The page-cross signal is 1 exactly when adding the index changes the high byte of the address (R134). -/
def Obligations.PageCrossMeansTheHighByteChanges : Prop :=
  ∀ (b : Word) (i : Byte), pageCross b i = true ↔ hiByte (b + zeroExtend16 i) ≠ hiByte b

/-- Zero-page arithmetic (20_memory.md R54): once the operand byte is read, Zero Page,X and Zero Page,Y give
`(operand + index) mod 256` and Indirect,X its pointer at `(operand + X) mod 256`, and none overflows. -/
def Obligations.ZeroPageArithmeticIsModulo256 : Prop :=
  ∀ (s : State) (n : Byte), operandByteRead s = .ok n →
    (∃ r, resolveZpX n s = .ok r ∧ r.ea.toNat = (n.toNat + s.x.toNat) % 256 ∧ r.ea.toNat ≤ 0x00FF) ∧
    (∃ r, resolveZpY n s = .ok r ∧ r.ea.toNat = (n.toNat + s.y.toNat) % 256 ∧ r.ea.toNat ≤ 0x00FF) ∧
    (∃ r, ∃ z : Byte, resolveIndX n s = .ok r ∧ z.toNat = (n.toNat + s.x.toNat) % 256 ∧ r.ea = s.readZp16 z)

/-! ## Resolvers -/

/-- Zero Page (40_addressing_modes.md R124): EA is the operand byte, always in the zero page; no page cross; an
overflow of the operand's address is passed on. -/
def Obligations.ZeroPageResolver : Prop :=
  ∀ s : State,
    (∀ n, operandByteRead s = .ok n →
      resolveZp n s = .ok (plainResult (zeroExtend16 n)) ∧ (zeroExtend16 n).toNat = n.toNat) ∧
    (∀ n t, operandByteRead s = .error t → resolveZp n s = .error t)

/-- Zero Page,X and Zero Page,Y (R125, R126): EA is the operand byte plus the index modulo 256; no page cross; no
instruction is in Zero Page,Y mode. -/
def Obligations.IndexedZeroPageResolvers : Prop :=
  (∀ s : State,
    (∀ n, operandByteRead s = .ok n →
      ∃ x y, resolveZpX n s = .ok (plainResult x) ∧ x.toNat = (n.toNat + s.x.toNat) % 256 ∧
        resolveZpY n s = .ok (plainResult y) ∧ y.toNat = (n.toNat + s.y.toNat) % 256) ∧
    (∀ n t, operandByteRead s = .error t → resolveZpX n s = .error t ∧ resolveZpY n s = .error t)) ∧
  ∀ i : Instr, i.mode ≠ .zeroPageY

/-- Absolute (R127): EA is the little-endian word at PC+1; no page cross; at PC = 0xFFFE the high byte is at
0x10000, which raises under fault and is 0x0000 under wrap16. -/
def Obligations.AbsoluteResolver : Prop :=
  ∀ s : State,
    (∀ w, operandWordRead s = .ok w → resolveAbs w s = .ok (plainResult w)) ∧
    (∀ w t, operandWordRead s = .error t → resolveAbs w s = .error t) ∧
    (s.pc = 0xFFFE → s.params.addrOverflow = .fault → operandWordRead s = .error 0x10000) ∧
    (s.pc = 0xFFFE → s.params.addrOverflow = .wrap16 →
      operandWordRead s = .ok (joinBytes (s.memRead 0x0000) (s.memRead 0xFFFF)))

/-- Absolute,X and Absolute,Y (R128, R129): EA is AddrAdd(base, index), with the page cross of R134; a zero index
never crosses; past 0xFFFF it raises under fault and wraps with a cross under wrap16. -/
def Obligations.IndexedAbsoluteResolvers : Prop :=
  ∀ s : State,
    (∀ w, operandWordRead s = .ok w →
      resolveAbsX w s = indexedResult s w s.x ∧ resolveAbsY w s = indexedResult s w s.y) ∧
    (∀ w t, operandWordRead s = .error t → resolveAbsX w s = .error t ∧ resolveAbsY w s = .error t) ∧
    (∀ w r, indexedResult s w 0 = .ok r → r.cross = false) ∧
    (∀ (w : Word) (k : Byte), w.toNat + k.toNat > 0xFFFF →
      (s.params.addrOverflow = .fault → indexedResult s w k = .error (w.toNat + k.toNat)) ∧
      (s.params.addrOverflow = .wrap16 →
        ∃ r, indexedResult s w k = .ok r ∧ r.ea.toNat = (w.toNat + k.toNat) % 65536 ∧ r.cross = true))

/-- Indirect,X (R131): the zero-page pointer at `(operand + X) mod 256`, read by ReadZP16; no page cross. -/
def Obligations.IndirectXResolver : Prop :=
  ∀ s : State,
    (∀ n, operandByteRead s = .ok n →
      ∃ z : Byte, z.toNat = (n.toNat + s.x.toNat) % 256 ∧ resolveIndX n s = .ok (plainResult (s.readZp16 z))) ∧
    (∀ n t, operandByteRead s = .error t → resolveIndX n s = .error t)

/-- Indirect,Y (R132): the zero-page pointer at the operand, read by ReadZP16 and then indexed by Y through
AddrAdd, with the page cross of R134; Y = 0 never crosses; past 0xFFFF as Absolute,X. -/
def Obligations.IndirectYResolver : Prop :=
  ∀ s : State,
    (∀ n, operandByteRead s = .ok n →
      resolveIndY n s = indexedResult s (s.readZp16 n) s.y ∧
      (s.y = 0 → ∀ r, resolveIndY n s = .ok r → r.cross = false) ∧
      ((s.readZp16 n).toNat + s.y.toNat > 0xFFFF →
        (s.params.addrOverflow = .fault → resolveIndY n s = .error ((s.readZp16 n).toNat + s.y.toNat)) ∧
        (s.params.addrOverflow = .wrap16 → ∃ r, resolveIndY n s = .ok r ∧
          r.ea.toNat = ((s.readZp16 n).toNat + s.y.toNat) % 65536 ∧ r.cross = true))) ∧
    (∀ n t, operandByteRead s = .error t → resolveIndY n s = .error t)

/-- Immediate and Accumulator (R122, R123): EA is the operand byte's address AddrAdd(PC, 1), so that the byte
there is the data the fetch read; EA is PC with the tag EA_ACC set. The tag is the spec's own decision (D11). -/
def Obligations.ImmediateAndAccumulatorResolvers : Prop :=
  ∀ s : State,
    resolveImm s = (match s.addrAdd s.pc 1 with
      | .ok a => .ok (plainResult a)
      | .error t => .error t) ∧
    (∀ n a, operandByteRead s = .ok n → s.addrAdd s.pc 1 = .ok a → s.memRead a = n) ∧
    (s.pc = 0xFFFF → s.params.addrOverflow = .fault → resolveImm s = .error 0x10000) ∧
    (s.pc = 0xFFFF → s.params.addrOverflow = .wrap16 → resolveImm s = .ok (plainResult 0x0000)) ∧
    resolveAcc s = .ok { ea := s.pc, acc := true, cross := false }

/-- Indirect (R130), which no instruction uses: the pointer at the operand word, its high byte one past the first
under linear (which may raise), on the first's own page under page_wrap. -/
def Obligations.IndirectResolver : Prop :=
  (∀ s : State, ∀ w, operandWordRead s = .ok w →
    (s.params.indPtrWrap = .linear →
      resolveInd w s = (match s.addrAdd w 1 with
        | .ok b => .ok (plainResult (joinBytes (s.memRead b) (s.memRead w)))
        | .error t => .error t)) ∧
    (s.params.indPtrWrap = .pageWrap → ∃ b : Word,
      b.toNat = w.toNat / 256 * 256 + (w.toNat + 1) % 256 ∧
      resolveInd w s = .ok (plainResult (joinBytes (s.memRead b) (s.memRead w))))) ∧
  ∀ i : Instr, i.mode ≠ .indirect

/-- Relative (R133), which no instruction uses: EA is AddrAdd(PC, 1 + s) for the signed offset
`s = n - 256 * n[7]`; no page cross. -/
def Obligations.RelativeResolver : Prop :=
  (∀ s : State, ∀ n, operandByteRead s = .ok n →
    resolveRel n s =
      (match s.addrAdd s.pc (1 + ((n.toNat : Int) - 256 * (n.getLsbD 7).toNat)) with
      | .ok a => .ok (plainResult a)
      | .error t => .error t)) ∧
  ∀ i : Instr, i.mode ≠ .relative

/-! ## Flags -/

/-- FlagWrite (10_state.md R31): under set_only the flag becomes itself or the condition, under clear_then_set
the condition; every other bit of P and every other field is as it was. -/
def Obligations.FlagWriteFollowsThePolicy : Prop :=
  ∀ (s : State) (f : Flag) (c : Bool),
    (s.params.flags = .setOnly → (s.flagWrite f c).flag f = (s.flag f || c)) ∧
    (s.params.flags = .clearThenSet → (s.flagWrite f c).flag f = c) ∧
    StatusKept s (s.flagWrite f c) [flagBit f] ∧
    { s.flagWrite f c with p := s.p } = s

/-- Under set_only no step clears a bit of P: a flag that is 1 stays 1 (R31). -/
def Obligations.SetOnlyStepsNeverClearAFlag : Prop :=
  ∀ (s t : State) (k : Nat), s.params.flags = .setOnly → step s = .next t →
    s.p.getLsbD k = true → t.p.getLsbD k = true

/-! ## Results -/

/-- ADC (41_arithmetic.md R150), all eight forms (adcImm, adcZp, adcZpX, adcAbs, adcAbsX, adcAbsY, adcIndX,
adcIndY), at the eight opcodes: where no address overflows it completes, with A the sum modulo 256, C, Z, V and N
written for their conditions under the parameters, and memory and the other bits of P as they were. That Z tests
the 8-bit result and that P.D is ignored are the spec's own decisions (D20, D12, log 10). -/
def Obligations.AdcAddsAndWritesFourFlags : Prop :=
  Encodings .adc [(0x69, .immediate), (0x65, .zeroPage), (0x75, .zeroPageX), (0x6D, .absolute),
    (0x7D, .absoluteX), (0x79, .absoluteY), (0x61, .indirectX), (0x71, .indirectY)] ∧
  ∀ (i : Instr) (s : State), i.mnemonic = .adc → AddressesInRange i s →
    let m := operandValue i s
    let cin : Nat := if s.params.adcCarryIn = .included then (s.p.getLsbD 0).toNat else 0
    let sum : Nat := s.a.toNat + m.toNat + cin
    ∃ t, exec i s = .next t ∧ Completed i s t ∧ t.mem = s.mem ∧
      t.a.toNat = sum % 256 ∧
      t.p.getLsbD 0 = flagAfter s 0 (decide (sum > 255)) ∧
      t.p.getLsbD 1 = flagAfter s 1 (decide (sum % 256 = 0)) ∧
      t.p.getLsbD 6 = flagAfter s 6
        (s.a.getLsbD 7 == m.getLsbD 7 && t.a.getLsbD 7 != s.a.getLsbD 7) ∧
      t.p.getLsbD 7 = flagAfter s 7
        (if s.params.adcNegative = .signsDiffer then s.a.getLsbD 7 != m.getLsbD 7 && t.a.getLsbD 7
         else t.a.getLsbD 7) ∧
      StatusKept s t [0, 1, 6, 7]

/-- LDA (42_load_store.md R160), all eight forms (ldaImm, ldaZp, ldaZpX, ldaAbs, ldaAbsX, ldaAbsY, ldaIndX,
ldaIndY), at the eight opcodes: where no address overflows it completes, with A the byte at EA, N and Z written
for it, EA_ACC 0, and memory and the other bits of P as they were. -/
def Obligations.LdaLoadsAndWritesNZ : Prop :=
  Encodings .lda [(0xA9, .immediate), (0xA5, .zeroPage), (0xB5, .zeroPageX), (0xAD, .absolute),
    (0xBD, .absoluteX), (0xB9, .absoluteY), (0xA1, .indirectX), (0xB1, .indirectY)] ∧
  ∀ (i : Instr) (s : State), i.mnemonic = .lda → AddressesInRange i s →
    (s.fetch = .ok i → operandValue i s = s.memRead (effectiveAddress i s)) ∧
    ∃ t, exec i s = .next t ∧ Completed i s t ∧ t.eaAcc = false ∧ t.mem = s.mem ∧
      t.a = operandValue i s ∧
      t.p.getLsbD 7 = flagAfter s 7 ((operandValue i s).getLsbD 7) ∧
      t.p.getLsbD 1 = flagAfter s 1 (decide (operandValue i s = 0)) ∧
      StatusKept s t [1, 7]

/-- STA (R161), all seven forms (staZp, staZpX, staAbs, staAbsX, staAbsY, staIndX, staIndY), at the seven
opcodes: where no address overflows it completes, with the byte at EA equal to A, every other byte, A and all of P
as they were, EA_ACC 0, and no page-cross penalty. -/
def Obligations.StaStoresAndTouchesNoFlag : Prop :=
  Encodings .sta [(0x85, .zeroPage), (0x95, .zeroPageX), (0x8D, .absolute), (0x9D, .absoluteX),
    (0x99, .absoluteY), (0x81, .indirectX), (0x91, .indirectY)] ∧
  ∀ (i : Instr) (s : State), i.mnemonic = .sta → AddressesInRange i s →
    ∃ t, exec i s = .next t ∧ Completed i s t ∧ t.eaAcc = false ∧ t.a = s.a ∧ t.p = s.p ∧
      t.cyc = (i.descriptor.baseCycles : Int) - 1 ∧
      ∀ b : Word, t.memRead b = if b = effectiveAddress i s then s.a else s.memRead b

/-- AND (43_logical.md R170), all eight forms (andImm, andZp, andZpX, andAbs, andAbsX, andAbsY, andIndX,
andIndY), at the eight opcodes: where no address overflows it completes, with A the bitwise AND of A and the byte
at EA, N and Z written for it, EA_ACC 0, and memory and the other bits of P as they were. -/
def Obligations.AndMasksAndWritesNZ : Prop :=
  Encodings .and [(0x29, .immediate), (0x25, .zeroPage), (0x35, .zeroPageX), (0x2D, .absolute),
    (0x3D, .absoluteX), (0x39, .absoluteY), (0x21, .indirectX), (0x31, .indirectY)] ∧
  ∀ (i : Instr) (s : State), i.mnemonic = .and → AddressesInRange i s →
    (s.fetch = .ok i → operandValue i s = s.memRead (effectiveAddress i s)) ∧
    ∃ t, exec i s = .next t ∧ Completed i s t ∧ t.eaAcc = false ∧ t.mem = s.mem ∧
      (∀ k, t.a.getLsbD k = (s.a.getLsbD k && (operandValue i s).getLsbD k)) ∧
      t.p.getLsbD 7 = flagAfter s 7 (t.a.getLsbD 7) ∧
      t.p.getLsbD 1 = flagAfter s 1 (decide (t.a = 0)) ∧
      StatusKept s t [1, 7]

/-- ASL A (44_shift.md R180; aslAcc), at 0x0A among the five opcodes of ASL: where the PC advance does not overflow
it completes, with A shifted left by one modulo 256, C the bit shifted out, Z and N of the result, N equal to the
old bit 6, under both values of P_ASL_DEST (R181); memory and the other bits of P are as they were. -/
def Obligations.AslAccumulatorShiftsA : Prop :=
  Encodings .asl aslEncodings ∧
  ∀ s : State, AddressesInRange .aslAcc s →
    ∃ t, exec .aslAcc s = .next t ∧ Completed .aslAcc s t ∧ t.eaAcc = true ∧ t.mem = s.mem ∧
      t.a.toNat = 2 * s.a.toNat % 256 ∧
      t.p.getLsbD 0 = flagAfter s 0 (s.a.getLsbD 7) ∧
      t.p.getLsbD 1 = flagAfter s 1 (decide (t.a = 0)) ∧
      t.p.getLsbD 7 = flagAfter s 7 (s.a.getLsbD 6) ∧
      StatusKept s t [0, 1, 7]

/-- ASL of a memory operand (R180; aslZp, aslZpX, aslAbs, aslAbsX), at the four opcodes: where no address overflows
it completes, with the byte at EA shifted left by one modulo 256 written to A (memory unchanged) under accumulator
and to that byte alone (A unchanged) under source, and C, Z and N as for ASL A; no page-cross penalty. That the byte
at EA and not A is shifted when EA is the instruction's own opcode address is the choice of the tag EA_ACC
(log 8, the spec's own decision D11, unsafe for that one case). -/
def Obligations.AslMemoryShiftsTheByteAtEA : Prop :=
  Encodings .asl aslEncodings ∧
  ∀ (i : Instr) (s : State), i.mnemonic = .asl → i.mode ≠ .accumulator → AddressesInRange i s →
    let v := s.memRead (effectiveAddress i s)
    ∃ (t : State) (r : Byte), exec i s = .next t ∧ Completed i s t ∧ t.eaAcc = false ∧
      t.cyc = (i.descriptor.baseCycles : Int) - 1 ∧
      r.toNat = 2 * v.toNat % 256 ∧
      (s.params.aslDest = .accumulator → t.a = r ∧ t.mem = s.mem) ∧
      (s.params.aslDest = .source → t.a = s.a ∧
        ∀ b : Word, t.memRead b = if b = effectiveAddress i s then r else s.memRead b) ∧
      t.p.getLsbD 0 = flagAfter s 0 (v.getLsbD 7) ∧
      t.p.getLsbD 1 = flagAfter s 1 (decide (r = 0)) ∧
      t.p.getLsbD 7 = flagAfter s 7 (v.getLsbD 6) ∧
      StatusKept s t [0, 1, 7]

/-- ADC's Overflow condition says exactly that the signed sum, with the carry in, lies outside -128..127
(41_arithmetic.md R154). -/
def Obligations.AdcOverflowIsSignedOverflow : Prop :=
  ∀ (a m : Byte) (c : Bool),
    adcOverflow a m (BitVec.ofNat 8 (a.toNat + m.toNat + c.toNat)) = true ↔
      (a.toInt + m.toInt + c.toNat < -128 ∨ 127 < a.toInt + m.toInt + c.toNat)

/-! ## Frames -/

/-- The frame of an instruction that stores nothing (ADC, AND, LDA, ASL A, and a memory-mode ASL under
P_ASL_DEST = accumulator), in every next state: X, Y, SP, the parameters, every byte of memory, bits 2 to 5 of P,
V unless it is ADC, C unless it is ADC or ASL; and FAULT, unless the pulse is discarded and records one. That a
faulting pulse leaves all but FAULT as it was is the rollback of 60_exceptions.md R224, the spec's own decision
(D15, log 4). -/
def Obligations.FrameOfInstructionsThatStoreNothing : Prop :=
  ∀ (i : Instr) (s t : State), storesNothing i s → exec i s = .next t →
    UnwrittenKept s t ∧ (∀ b : Word, t.memRead b = s.memRead b) ∧
    (∀ k, 2 ≤ k → k ≤ 5 → t.p.getLsbD k = s.p.getLsbD k) ∧
    (i.mnemonic ≠ .adc → t.p.getLsbD 6 = s.p.getLsbD 6) ∧
    (i.mnemonic = .lda ∨ i.mnemonic = .and → t.p.getLsbD 0 = s.p.getLsbD 0) ∧
    (t.fault = s.fault ∨ t = { s with fault := t.fault })

/-- The frame of an instruction that stores (STA, and a memory-mode ASL under P_ASL_DEST = source), in every next
state: A, X, Y, SP, the parameters, every byte of memory but the one at the effective address, bits 2 to 6 of P,
all of P for STA; and FAULT, unless the pulse is discarded and records one. That ASL leaves A alone when its EA is
its own opcode address is the choice of the tag EA_ACC (log 8, the spec's own decision D11, unsafe for that one
case). That a faulting pulse leaves all but FAULT as it was is the rollback of 60_exceptions.md R224, the spec's own
decision (D15, log 4). -/
def Obligations.FrameOfInstructionsThatStore : Prop :=
  ∀ (i : Instr) (s t : State), ¬ storesNothing i s → exec i s = .next t →
    UnwrittenKept s t ∧ t.a = s.a ∧
    (∀ b : Word, b ≠ effectiveAddress i s → t.memRead b = s.memRead b) ∧
    (∀ k, 2 ≤ k → k ≤ 6 → t.p.getLsbD k = s.p.getLsbD k) ∧
    (i.mnemonic = .sta → t.p = s.p) ∧
    (t.fault = s.fault ∨ t = { s with fault := t.fault })

/-! ## Rules of the whole machine -/

/-- No step writes X, Y or SP (10_state.md R22, R23), bits 2 to 5 of P (R26 to R28), or the parameters, which are
the model's own field (log 2). -/
def Obligations.StepsNeverWriteIndexStackOrMaskBits : Prop :=
  ∀ s t : State, step s = .next t →
    UnwrittenKept s t ∧ ∀ k, 2 ≤ k → k ≤ 5 → t.p.getLsbD k = s.p.getLsbD k

/-- No instruction reads SP, P.D, P.I or bits 4 and 5 of P (R23, R26 to R28, 41_arithmetic.md R153): changing them
before an instruction changes them after it and nothing else. That ADC ignores P.D is the spec's own decision
(D12). -/
def Obligations.StackDecimalAndMaskBitsAreNeverRead : Prop :=
  ∀ (i : Instr) (s : State) (sp q : Byte),
    exec i (withUnread s sp q) =
      match exec i s with
      | .next t => .next (withUnread t sp q)
      | .fault r => .fault r
      | .refused r => .refused r

/-- A completed fetch pulse does not depend on the CYC, EA and EA_ACC the last instruction left (R29, R30). -/
def Obligations.OldClockAndScratchAreNeverRead : Prop :=
  ∀ (i : Instr) (s : State) (ea : Word) (acc : Bool) (cyc : Int), AddressesInRange i s →
    exec i { s with ea := ea, eaAcc := acc, cyc := cyc } = exec i s

/-- A store to the next instruction's opcode byte is seen by the fetch that follows it: after STA the byte at the
new PC is the stored A, and whatever the next fetch gives has that opcode (20_memory.md R66). That a stored
unpopulated byte makes that fetch answer UnimplementedOpcode is 60_exceptions.md R221 and 49_clock_dispatch.md R191,
the spec's own decision (D6, log 10). -/
def Obligations.StoreIsSeenByTheNextFetch : Prop :=
  ∀ (i : Instr) (s : State), i.mnemonic = .sta → AddressesInRange i s →
    effectiveAddress i s = s.pc + BitVec.ofNat 16 i.length →
    ∃ t, exec i s = .next t ∧ t.memRead t.pc = s.a ∧
      (∀ cyc j, State.fetch { t with cyc := cyc } = .ok j → j.descriptor.opcode = s.a) ∧
      ∀ cyc, describe s.a = none →
        State.fetch { t with cyc := cyc } = .error .unimplementedOpcode

/-! ## The pulse -/

/-- At a boundary whose bytes at PC decode to an instruction, with its operand bytes inside the address space or
wrap16, a step is exec of it: the whole fetch pulse, its PC advance and decrement (49_clock_dispatch.md R191). -/
def Obligations.StepRunsTheDecodedInstruction : Prop :=
  ∀ (s : State) (i : Instr) (rest : List Byte), s.AtBoundary → decode (window s) = .ok (i, rest) →
    s.params.addrOverflow = .wrap16 ∨ s.pc.toNat + i.length ≤ 65536 →
    step s = exec i s

/-- CYC is decremented by 1 in every pulse: a pulse that is no fetch pulse does that and nothing else, and a
completed fetch pulse leaves the instruction's cost less 1 (R195). -/
def Obligations.EveryPulseDecrementsTheClock : Prop :=
  (∀ s : State, s.fault = none → 0 < s.cyc → step s = .next { s with cyc := s.cyc - 1 }) ∧
  (∀ (s : State) (i : Instr), s.AtBoundary → s.fetch = .ok i → AddressesInRange i s →
    ∃ t, step s = .next t ∧ t.cyc = cost i s - 1)

/-- A faulted state has no step (60_exceptions.md R225, the spec's own decision D16; the stop is log 4). -/
def Obligations.FaultedStateHasNoStep : Prop :=
  ∀ (s : State) (r : FaultRecord), s.fault = some r → step s = .fault (.halted r)

/-- At a boundary with an unpopulated opcode byte at PC a step records UnimplementedOpcode with PC and that byte
and changes nothing else (R221; the spec's own decisions D6 and D15, log 4). -/
def Obligations.UnpopulatedOpcodeIsRecorded : Prop :=
  ∀ s : State, s.AtBoundary → describe (s.memRead s.pc) = none →
    step s = .next { s with fault := some ⟨.unimplementedOpcode, s.pc, s.memRead s.pc⟩ }

/-- Under fault, at a boundary whose instruction has an operand byte past 0xFFFF, a step records AddressOverflow
of 0x10000 with PC and the opcode and changes nothing else (R222, 49_clock_dispatch.md R194; the spec's
own decisions D7 and D15, log 4). -/
def Obligations.OperandPastTheTopIsRecorded : Prop :=
  ∀ (s : State) (d : Descriptor), s.AtBoundary → s.params.addrOverflow = .fault →
    describe (s.memRead s.pc) = some d → s.pc.toNat + d.length > 65536 →
    step s = .next { s with fault := some ⟨.addressOverflow 0x10000, s.pc, s.memRead s.pc⟩ }

/-- Under fault, an instruction with an address out of range records AddressOverflow of the first one in the order
of the pulse (R222, R227): an operand byte at 0x10000, else the indexed sum, else the PC advance to 0x10000.
The rollback and this fault are the spec's own decisions (D15, D7), and the answer is log 4. -/
def Obligations.AddressOverflowRecordsTheFirst : Prop :=
  ∀ (i : Instr) (s : State), ¬ AddressesInRange i s →
    exec i s = .next { s with fault := some ⟨.addressOverflow
      (if s.pc.toNat + i.length > 65536 then 0x10000
       else if indexSum i s > 65535 then (indexSum i s : Int) else 0x10000),
      s.pc, i.descriptor.opcode⟩ }

/-- A step that records a fault discards every other write of its pulse (R224, the spec's own decision D15, log 4). -/
def Obligations.FaultDiscardsThePulse : Prop :=
  ∀ s t : State, step s = .next t → t.fault ≠ none → t = { s with fault := t.fault }

/-- The only faults a step records are UnimplementedOpcode at an unpopulated byte and, under fault alone,
AddressOverflow of a sum from 0x10000 to 0x100FE; either has the PC and the opcode byte of the pulse (R221 to
R223; the spec's own decisions D6 and D7, log 4). -/
def Obligations.OnlyTwoFaultsAreRecorded : Prop :=
  ∀ (s t : State) (r : FaultRecord), step s = .next t → t.fault = some r →
    r.pc = s.pc ∧ r.opcode = s.memRead s.pc ∧
    ((r.kind = .unimplementedOpcode ∧ describe r.opcode = none) ∨
     (s.params.addrOverflow = .fault ∧ ∃ k, r.kind = .addressOverflow k ∧ 0x10000 ≤ k ∧ k ≤ 0x100FE))

/-- Every pulse of a state with no fault recorded answers a next state: none is refused and none stops
(49_clock_dispatch.md R191, 60_exceptions.md R231). That a pulse which raises a fault answers a next state, with
FAULT recorded and its writes discarded, is the model's reading of R224 (log 4). -/
def Obligations.UnfaultedPulseAlwaysAnswers : Prop :=
  ∀ s : State, s.fault = none → ∃ t, step s = .next t

/-! ## Instruction-level stepping -/

/-- From a boundary an instruction takes exactly its cost in pulses, between 2 and 7: all its effects are there
after the first, the others count down, and after the last CYC is 0 (R192, R196, R198; D23). The pulses follow one
another with no host write between them (log 5). -/
def Obligations.InstructionTakesExactlyItsCost : Prop :=
  ∀ (s : State) (i : Instr), s.AtBoundary → s.fetch = .ok i → AddressesInRange i s →
    ∃ t, exec i s = .next t ∧ 2 ≤ cost i s ∧ cost i s ≤ 7 ∧
      ∀ k : Nat, 1 ≤ k → (k : Int) ≤ cost i s →
        Host.Core.run Sys2Proof.core k s = .next { t with cyc := cost i s - k }

/-- StepInstr from a boundary ends at a boundary or with a fault after one pulse (R198): without a fault CYC is 0
and all else is as the fetched instruction's fetch pulse left it. StepInstr is the spec's own definition (D23), and
no host write comes between its pulses (log 5). -/
def Obligations.InstructionStepEndsAtABoundary : Prop :=
  ∀ s : State, s.AtBoundary → ∃ t, stepInstr s = .next t ∧ t.cyc ≤ 0 ∧
    (t.fault ≠ none → step s = .next t) ∧
    (t.fault = none → t.cyc = 0 ∧ ∃ i u, s.fetch = .ok i ∧ exec i s = .next u ∧ t = { u with cyc := 0 })

/-! ## Invariants -/

/-- Memory stays in its canonical form, inside 0x0000..0xFFFF (20_memory.md R50), under every step and every host
write. The form is the model's (log 1). -/
def Obligations.StepsKeepMemoryCanonical : Prop :=
  (∀ s t : State, Memory.wf s.mem → step s = .next t → Memory.wf t.mem) ∧
  (∀ (s : State) (a : Word) (v : Byte), Memory.wf s.mem → Memory.wf (s.hostWrite a v).mem)

/-- CYC stays in 0..6 under every step (10_state.md R29). -/
def Obligations.StepsKeepTheClockInRange : Prop :=
  ∀ s t : State, s.ClockInRange → step s = .next t → t.ClockInRange

/-- The reset state is a boundary, its memory is canonical and its clock in range (R29, R36). -/
def Obligations.ResetMeetsTheInvariants : Prop :=
  State.reset.AtBoundary ∧ Memory.wf State.reset.mem ∧ State.reset.ClockInRange

/-! ## The end of a run -/

/-- A run of at most `n` pulses from a launch state (49_clock_dispatch.md R202, 10_state.md R37) reports the FIRST
boundary with `PC = STOP` as its end, a fault before it as a failure, and neither when neither is within `n` pulses.
The end of a run is the spec's own definition (D23), that the launch state counts is log 12, and no host write
comes between the pulses (log 5). -/
def Obligations.RunToFindsTheFirstStop : Prop :=
  ∀ (stop : Word) (n : Nat) (s : State), s.AtBoundary →
    (∀ t, runTo stop n s = .ended t ↔ ∃ k, k ≤ n ∧ RunEnds stop s k t) ∧
    (∀ t, runTo stop n s = .failed t ↔ ∃ k, k ≤ n ∧ RunFails stop s k t) ∧
    ((∃ t, runTo stop n s = .running t) ↔
      ∃ t, Host.Core.run Sys2Proof.core n s = .next t ∧ RunReaches stop s n t ∧ ¬ t.EndOfRun stop ∧ ¬ t.Failed)

/-- A run has at most one end, and a run that fails has none (R202: a failed run is no end). The end of a run is the
spec's own definition (D23), that the launch state counts is log 12, and that the launch state fixes the end rests
on no host write coming between the pulses (log 5). -/
def Obligations.RunHasAtMostOneEnd : Prop :=
  (∀ (stop : Word) (s t t' : State) (k k' : Nat),
    RunEnds stop s k t → RunEnds stop s k' t' → k = k' ∧ t = t') ∧
  (∀ (stop : Word) (s t t' : State) (k k' : Nat), RunEnds stop s k t → ¬ RunFails stop s k' t')

/-- A run goes instruction by instruction (R202, R198): at the stop address it has ended, with no pulse more
whatever stands there; elsewhere it goes through the instruction at PC, whose cost in pulses is added, so that the
pulses of a run are the sum of the costs of its instructions; and it fails if the fetch pulse faults. The end of a run
is the spec's own definition (D23), that the launch state counts is log 12, and no host write comes between (log 5). -/
def Obligations.RunGoesInstructionByInstruction : Prop :=
  (∀ (stop : Word) (s t : State) (k : Nat), s.EndOfRun stop → (RunEnds stop s k t ↔ k = 0 ∧ t = s)) ∧
  (∀ (stop : Word) (s : State) (i : Instr), s.AtBoundary → s.pc ≠ stop → s.fetch = .ok i → AddressesInRange i s →
    ∃ t, stepInstr s = .next t ∧ t.AtBoundary ∧ ∀ (k : Nat) (u : State),
      (RunEnds stop s k u ↔ ∃ j : Nat, (k : Int) = cost i s + j ∧ RunEnds stop t j u) ∧
      (RunFails stop s k u ↔ ∃ j : Nat, (k : Int) = cost i s + j ∧ RunFails stop t j u)) ∧
  (∀ (stop : Word) (s t : State), s.AtBoundary → s.pc ≠ stop → step s = .next t → t.Failed → RunFails stop s 1 t)
end

