-- ==== Sys2Proof/Laws/State.lean ====
section
/-! SUPPORT. One lemma per field per update of the state, so that no proof unfolds an update. -/

namespace Sys2Proof.Machine

variable (s : State) (a : Word) (v : Byte) (k : FaultKind) (op : Byte) (d : Descriptor) (r : Resolved)
  (f : Flag) (c : Bool)

@[simp] theorem State.memWrite_a : (s.memWrite a v).a = s.a := rfl
@[simp] theorem State.memWrite_x : (s.memWrite a v).x = s.x := rfl
@[simp] theorem State.memWrite_y : (s.memWrite a v).y = s.y := rfl
@[simp] theorem State.memWrite_sp : (s.memWrite a v).sp = s.sp := rfl
@[simp] theorem State.memWrite_pc : (s.memWrite a v).pc = s.pc := rfl
@[simp] theorem State.memWrite_p : (s.memWrite a v).p = s.p := rfl
@[simp] theorem State.memWrite_cyc : (s.memWrite a v).cyc = s.cyc := rfl
@[simp] theorem State.memWrite_ea : (s.memWrite a v).ea = s.ea := rfl
@[simp] theorem State.memWrite_eaAcc : (s.memWrite a v).eaAcc = s.eaAcc := rfl
@[simp] theorem State.memWrite_fault : (s.memWrite a v).fault = s.fault := rfl
@[simp] theorem State.memWrite_mem : (s.memWrite a v).mem = Memory.write s.mem a.toNat v := rfl
@[simp] theorem State.memWrite_params : (s.memWrite a v).params = s.params := rfl

@[simp] theorem State.raise_a : (s.raise k op).a = s.a := rfl
@[simp] theorem State.raise_x : (s.raise k op).x = s.x := rfl
@[simp] theorem State.raise_y : (s.raise k op).y = s.y := rfl
@[simp] theorem State.raise_sp : (s.raise k op).sp = s.sp := rfl
@[simp] theorem State.raise_pc : (s.raise k op).pc = s.pc := rfl
@[simp] theorem State.raise_p : (s.raise k op).p = s.p := rfl
@[simp] theorem State.raise_cyc : (s.raise k op).cyc = s.cyc := rfl
@[simp] theorem State.raise_ea : (s.raise k op).ea = s.ea := rfl
@[simp] theorem State.raise_eaAcc : (s.raise k op).eaAcc = s.eaAcc := rfl
@[simp] theorem State.raise_fault : (s.raise k op).fault = some { kind := k, pc := s.pc, opcode := op } := rfl
@[simp] theorem State.raise_mem : (s.raise k op).mem = s.mem := rfl
@[simp] theorem State.raise_params : (s.raise k op).params = s.params := rfl

@[simp] theorem State.tick_a : (s.tick).a = s.a := rfl
@[simp] theorem State.tick_x : (s.tick).x = s.x := rfl
@[simp] theorem State.tick_y : (s.tick).y = s.y := rfl
@[simp] theorem State.tick_sp : (s.tick).sp = s.sp := rfl
@[simp] theorem State.tick_pc : (s.tick).pc = s.pc := rfl
@[simp] theorem State.tick_p : (s.tick).p = s.p := rfl
@[simp] theorem State.tick_cyc : (s.tick).cyc = s.cyc - 1 := rfl
@[simp] theorem State.tick_ea : (s.tick).ea = s.ea := rfl
@[simp] theorem State.tick_eaAcc : (s.tick).eaAcc = s.eaAcc := rfl
@[simp] theorem State.tick_fault : (s.tick).fault = s.fault := rfl
@[simp] theorem State.tick_mem : (s.tick).mem = s.mem := rfl
@[simp] theorem State.tick_params : (s.tick).params = s.params := rfl

@[simp] theorem State.resolved_a : (s.resolved d r).a = s.a := rfl
@[simp] theorem State.resolved_x : (s.resolved d r).x = s.x := rfl
@[simp] theorem State.resolved_y : (s.resolved d r).y = s.y := rfl
@[simp] theorem State.resolved_sp : (s.resolved d r).sp = s.sp := rfl
@[simp] theorem State.resolved_pc : (s.resolved d r).pc = s.pc := rfl
@[simp] theorem State.resolved_p : (s.resolved d r).p = s.p := rfl
@[simp] theorem State.resolved_cyc : (s.resolved d r).cyc = d.baseCycles + penalty d r := rfl
@[simp] theorem State.resolved_ea : (s.resolved d r).ea = r.ea := rfl
@[simp] theorem State.resolved_eaAcc : (s.resolved d r).eaAcc = r.acc := rfl
@[simp] theorem State.resolved_fault : (s.resolved d r).fault = s.fault := rfl
@[simp] theorem State.resolved_mem : (s.resolved d r).mem = s.mem := rfl
@[simp] theorem State.resolved_params : (s.resolved d r).params = s.params := rfl

@[simp] theorem State.flagWrite_a : (s.flagWrite f c).a = s.a := rfl
@[simp] theorem State.flagWrite_x : (s.flagWrite f c).x = s.x := rfl
@[simp] theorem State.flagWrite_y : (s.flagWrite f c).y = s.y := rfl
@[simp] theorem State.flagWrite_sp : (s.flagWrite f c).sp = s.sp := rfl
@[simp] theorem State.flagWrite_pc : (s.flagWrite f c).pc = s.pc := rfl
@[simp] theorem State.flagWrite_p : (s.flagWrite f c).p = setBit s.p (flagBit f) (flagValue s.params.flags (s.flag f) c) := rfl
@[simp] theorem State.flagWrite_cyc : (s.flagWrite f c).cyc = s.cyc := rfl
@[simp] theorem State.flagWrite_ea : (s.flagWrite f c).ea = s.ea := rfl
@[simp] theorem State.flagWrite_eaAcc : (s.flagWrite f c).eaAcc = s.eaAcc := rfl
@[simp] theorem State.flagWrite_fault : (s.flagWrite f c).fault = s.fault := rfl
@[simp] theorem State.flagWrite_mem : (s.flagWrite f c).mem = s.mem := rfl
@[simp] theorem State.flagWrite_params : (s.flagWrite f c).params = s.params := rfl

@[simp] theorem State.flagsNZ_a : (s.flagsNZ v).a = s.a := rfl
@[simp] theorem State.flagsNZ_x : (s.flagsNZ v).x = s.x := rfl
@[simp] theorem State.flagsNZ_y : (s.flagsNZ v).y = s.y := rfl
@[simp] theorem State.flagsNZ_sp : (s.flagsNZ v).sp = s.sp := rfl
@[simp] theorem State.flagsNZ_pc : (s.flagsNZ v).pc = s.pc := rfl
@[simp] theorem State.flagsNZ_cyc : (s.flagsNZ v).cyc = s.cyc := rfl
@[simp] theorem State.flagsNZ_ea : (s.flagsNZ v).ea = s.ea := rfl
@[simp] theorem State.flagsNZ_eaAcc : (s.flagsNZ v).eaAcc = s.eaAcc := rfl
@[simp] theorem State.flagsNZ_fault : (s.flagsNZ v).fault = s.fault := rfl
@[simp] theorem State.flagsNZ_mem : (s.flagsNZ v).mem = s.mem := rfl
@[simp] theorem State.flagsNZ_params : (s.flagsNZ v).params = s.params := rfl

end Sys2Proof.Machine
end

