-- ==== Sys2Proof/Laws/Memory.lean ====
section
/-! SUPPORT. The laws of memory: a read after a write, and that a write keeps the canonical form. -/

namespace Sys2Proof.Machine

/-- Looking an address up among cells that a filter keeps whenever they have that address. -/
theorem find_filter_of_keeps {m : List Host.Cell} {b : Nat} {q : Host.Cell → Bool}
    (h : ∀ c : Host.Cell, c.1 = b → q c = true) :
    (m.filter q).find? (fun c => c.1 == b) = m.find? (fun c => c.1 == b) := by
  rw [List.find?_filter]
  congr 1
  funext c
  by_cases hc : c.1 = b
  · simp [h c hc, hc]
  · simp [hc]

/-- Looking an address up among cells that a filter drops whenever they have that address. -/
theorem find_filter_of_drops {m : List Host.Cell} {b : Nat} {q : Host.Cell → Bool}
    (h : ∀ c : Host.Cell, c.1 = b → q c = false) :
    (m.filter q).find? (fun c => c.1 == b) = none := by
  rw [List.find?_eq_none]
  intro c hc hb
  have := h c (by simpa using hb)
  simp [this] at hc

/-- A read gives the byte last written to its address, and every other address reads as before (R51). -/
theorem Memory.read_write (m : List Host.Cell) (a b : Nat) (v : Byte) :
    Memory.read (Memory.write m a v) b = if b = a then v else Memory.read m b := by
  unfold Memory.read Memory.write
  rw [List.find?_append, List.find?_append]
  rcases Nat.lt_trichotomy b a with hlt | rfl | hgt
  · have hmid : (if v = unlisted then [] else [(a, v)]).find? (fun c : Host.Cell => c.1 == b) = none := by
      split <;> simp; omega
    rw [find_filter_of_keeps (b := b) (by intro c hc; simp [hc, hlt]), hmid,
      find_filter_of_drops (b := b) (by intro c hc; simp [hc]; omega)]
    simp [Nat.ne_of_lt hlt]
  · rw [find_filter_of_drops (b := b) (by intro c hc; simp [hc]),
      find_filter_of_drops (b := b) (by intro c hc; simp [hc])]
    by_cases hv : v = unlisted <;> simp [hv]
  · have hmid : (if v = unlisted then [] else [(a, v)]).find? (fun c : Host.Cell => c.1 == b) = none := by
      split <;> simp; omega
    rw [find_filter_of_drops (b := b) (by intro c hc; simp [hc]; omega), hmid,
      find_filter_of_keeps (b := b) (by intro c hc; simp [hc, hgt])]
    simp [Nat.ne_of_gt hgt]

/-- A write inside the address space keeps the canonical form. -/
theorem Memory.write_wf {m : List Host.Cell} {a : Nat} {v : Byte} (h : Memory.wf m) (ha : a < 65536) :
    Memory.wf (Memory.write m a v) := by
  obtain ⟨hsorted, hcells⟩ := h
  have hmid : ∀ c ∈ (if v = Memory.unlisted then [] else [((a, v) : Host.Cell)]),
      c.1 = a ∧ c.2 ≠ Memory.unlisted := by
    intro c hc
    split at hc
    · simp at hc
    · simp at hc
      subst hc
      exact ⟨rfl, by assumption⟩
  refine ⟨?_, ?_⟩
  · refine List.pairwise_append.2 ⟨List.pairwise_append.2 ⟨hsorted.filter _, ?_, ?_⟩, hsorted.filter _, ?_⟩
    · split <;> simp
    · intro c hc d hd
      simp at hc
      have := (hmid d hd).1
      omega
    · intro c hc d hd
      simp at hd
      rcases List.mem_append.1 hc with hc | hc
      · simp at hc
        omega
      · have := (hmid c hc).1
        omega
  · intro c hc
    rcases List.mem_append.1 hc with hc | hc
    · rcases List.mem_append.1 hc with hc | hc
      · exact hcells c (List.mem_of_mem_filter hc)
      · exact ⟨(hmid c hc).1 ▸ ha, (hmid c hc).2⟩
    · exact hcells c (List.mem_of_mem_filter hc)

/-- Reading the state's memory after a write (R51). -/
theorem State.memRead_memWrite (s : State) (a b : Word) (v : Byte) :
    (s.memWrite a v).memRead b = if b = a then v else s.memRead b := by
  unfold State.memRead
  rw [State.memWrite_mem, Memory.read_write]
  simp [BitVec.toNat_inj]

/-- A read looks at memory alone. -/
theorem State.memRead_congr {s t : State} (h : s.mem = t.mem) (a : Word) : s.memRead a = t.memRead a := by
  unfold State.memRead
  rw [h]

end Sys2Proof.Machine
end

