-- ==== Sys2Proof/Laws/Flags.lean ====
section
/-! SUPPORT. What writing a flag does to each bit of P. -/

namespace Sys2Proof.Machine

/-- Writing one bit of a byte: that bit has the value, every other bit is as it was. -/
theorem getLsbD_setBit (p : Byte) (k j : Nat) (b : Bool) (hk : k < 8) :
    (setBit p k b).getLsbD j = if j = k then b else p.getLsbD j := by
  unfold setBit
  by_cases hj : j < 8
  · cases b
    · simp [hj]
      by_cases h : j = k
      · subst h; simp
      · simp [h]; intro _; omega
    · simp [hj]
      by_cases h : j = k
      · subst h; simp
      · simp [h]; intro _; omega
  · have hne : j ≠ k := by omega
    have hp : p.getLsbD j = false := BitVec.getLsbD_of_ge _ _ (by omega)
    simp only [hne, if_false, hp]
    exact BitVec.getLsbD_of_ge _ _ (by omega)

/-- The flags are bits of the byte P (R25). -/
theorem flagBit_lt (f : Flag) : flagBit f < 8 := by
  cases f <;> decide

/-- Writing a flag (R31): its bit follows `P_FLAGS`, every other bit of P is as it was. -/
theorem State.flagWrite_bit (s : State) (f : Flag) (c : Bool) (j : Nat) :
    (s.flagWrite f c).p.getLsbD j =
      if j = flagBit f then flagValue s.params.flags (s.p.getLsbD j) c else s.p.getLsbD j := by
  rw [State.flagWrite_p, getLsbD_setBit _ _ _ _ (flagBit_lt f)]
  split
  · next h => rw [h]; rfl
  · rfl

/-- Two bytes with the same eight bits are equal. -/
theorem byte_ext {p q : Byte} (h : ∀ k, p.getLsbD k = q.getLsbD k) : p = q :=
  BitVec.eq_of_getLsbD_eq fun k _ => h k

end Sys2Proof.Machine
end

