-- ==== Sys2Proof/Laws/Address.lean ====
section
/-! SUPPORT. What address arithmetic (20_memory.md R53) can answer. -/

namespace Sys2Proof.Machine

/-- The wrapped integer sum is the sum of the words. -/
theorem ofInt_toNat_add (a : Word) (k : Int) :
    BitVec.ofInt 16 ((a.toNat : Int) + k) = a + BitVec.ofInt 16 k := by
  apply BitVec.eq_of_toNat_eq
  simp only [BitVec.toNat_add, BitVec.toNat_ofInt]
  omega

/-- An address is answered only as the sum modulo 65536, which is the sum itself under `fault`. -/
theorem addrAdd_ok {p : Config.AddrOverflow} {a w : Word} {k : Int} (h : addrAdd p a k = .ok w) :
    w = a + BitVec.ofInt 16 k ∧ (p = .fault → 0 ≤ (a.toNat : Int) + k ∧ (a.toNat : Int) + k ≤ 65535) := by
  unfold addrAdd at h
  simp only [ofInt_toNat_add] at h
  split at h
  · next hr => exact ⟨(Except.ok.inj h).symm, fun _ => by omega⟩
  · cases p
    · simp at h
    · exact ⟨(Except.ok.inj h).symm, by simp⟩

/-- An overflow is raised only under `fault`, with the sum, which is outside the address space. -/
theorem addrAdd_error {p : Config.AddrOverflow} {a : Word} {k t : Int} (h : addrAdd p a k = .error t) :
    p = .fault ∧ t = (a.toNat : Int) + k ∧ (t < 0 ∨ 65535 < t) := by
  unfold addrAdd at h
  simp only [ofInt_toNat_add] at h
  split at h
  · simp at h
  · cases p
    · have := Except.error.inj h
      exact ⟨rfl, this.symm, by omega⟩
    · simp at h

/-- The sum is answered whenever it is an address or `wrap16` holds. -/
theorem addrAdd_eq_ok {p : Config.AddrOverflow} {a : Word} {k : Int}
    (h : p = .wrap16 ∨ (0 ≤ (a.toNat : Int) + k ∧ (a.toNat : Int) + k ≤ 65535)) :
    addrAdd p a k = .ok (a + BitVec.ofInt 16 k) := by
  cases hr : addrAdd p a k with
  | ok w => rw [(addrAdd_ok hr).1]
  | error t =>
    obtain ⟨hp, ht, hout⟩ := addrAdd_error hr
    rcases h with h | h
    · simp [h] at hp
    · omega

/-- The overflow is raised whenever the sum is no address and `fault` holds. -/
theorem addrAdd_eq_error {p : Config.AddrOverflow} {a : Word} {k : Int} (hp : p = .fault)
    (h : (a.toNat : Int) + k < 0 ∨ 65535 < (a.toNat : Int) + k) :
    addrAdd p a k = .error ((a.toNat : Int) + k) := by
  cases hr : addrAdd p a k with
  | ok w => have := (addrAdd_ok hr).2 hp; omega
  | error t => rw [(addrAdd_error hr).2.1]

end Sys2Proof.Machine
end

