-- ==== Sys2Proof/Laws/Exec.lean ====
section
/-! SUPPORT. Each meaning as one fetch pulse of its descriptor, resolver and executor, what a fetch pulse and a
step can answer, and what an executor leaves unchanged. -/

namespace Sys2Proof.Machine

/-- The resolver of an instruction's meaning, with its operand (30_encoding.md R72). -/
def resolveOf : Instr → State → Except Int Resolved
  | .adcImm _ => resolveImm
  | .adcZp n => resolveZp n
  | .adcZpX n => resolveZpX n
  | .adcAbs w => resolveAbs w
  | .adcAbsX w => resolveAbsX w
  | .adcAbsY w => resolveAbsY w
  | .adcIndX n => resolveIndX n
  | .adcIndY n => resolveIndY n
  | .andImm _ => resolveImm
  | .andZp n => resolveZp n
  | .andZpX n => resolveZpX n
  | .andAbs w => resolveAbs w
  | .andAbsX w => resolveAbsX w
  | .andAbsY w => resolveAbsY w
  | .andIndX n => resolveIndX n
  | .andIndY n => resolveIndY n
  | .ldaImm _ => resolveImm
  | .ldaZp n => resolveZp n
  | .ldaZpX n => resolveZpX n
  | .ldaAbs w => resolveAbs w
  | .ldaAbsX w => resolveAbsX w
  | .ldaAbsY w => resolveAbsY w
  | .ldaIndX n => resolveIndX n
  | .ldaIndY n => resolveIndY n
  | .staZp n => resolveZp n
  | .staZpX n => resolveZpX n
  | .staAbs w => resolveAbs w
  | .staAbsX w => resolveAbsX w
  | .staAbsY w => resolveAbsY w
  | .staIndX n => resolveIndX n
  | .staIndY n => resolveIndY n
  | .aslAcc => resolveAcc
  | .aslZp n => resolveZp n
  | .aslZpX n => resolveZpX n
  | .aslAbs w => resolveAbs w
  | .aslAbsX w => resolveAbsX w

/-- The executor of an instruction's meaning, with its operand (49_clock_dispatch.md R203). -/
def executeOf : Instr → State → State
  | .adcImm n => executeAdc n
  | .adcZp _ => onMemory executeAdc
  | .adcZpX _ => onMemory executeAdc
  | .adcAbs _ => onMemory executeAdc
  | .adcAbsX _ => onMemory executeAdc
  | .adcAbsY _ => onMemory executeAdc
  | .adcIndX _ => onMemory executeAdc
  | .adcIndY _ => onMemory executeAdc
  | .andImm n => executeAnd n
  | .andZp _ => onMemory executeAnd
  | .andZpX _ => onMemory executeAnd
  | .andAbs _ => onMemory executeAnd
  | .andAbsX _ => onMemory executeAnd
  | .andAbsY _ => onMemory executeAnd
  | .andIndX _ => onMemory executeAnd
  | .andIndY _ => onMemory executeAnd
  | .ldaImm n => executeLda n
  | .ldaZp _ => onMemory executeLda
  | .ldaZpX _ => onMemory executeLda
  | .ldaAbs _ => onMemory executeLda
  | .ldaAbsX _ => onMemory executeLda
  | .ldaAbsY _ => onMemory executeLda
  | .ldaIndX _ => onMemory executeLda
  | .ldaIndY _ => onMemory executeLda
  | .staZp _ => executeSta
  | .staZpX _ => executeSta
  | .staAbs _ => executeSta
  | .staAbsX _ => executeSta
  | .staAbsY _ => executeSta
  | .staIndX _ => executeSta
  | .staIndY _ => executeSta
  | .aslAcc => executeAsl
  | .aslZp _ => executeAsl
  | .aslZpX _ => executeAsl
  | .aslAbs _ => executeAsl
  | .aslAbsX _ => executeAsl

/-- Every meaning is one fetch pulse. -/
theorem exec_eq_fetchPulse (i : Instr) (s : State) :
    exec i s = fetchPulse i.descriptor (resolveOf i) (executeOf i) s := by
  cases i <;> rfl

/-- What a fetch pulse can answer: the state before it with the fault recorded, or the executor's state with PC
advanced and `CYC` decremented. -/
theorem fetchPulse_cases {d : Descriptor} {resolve : State → Except Int Resolved} {execute : State → State}
    {s : State} {o : Host.Outcome State Fault Refusal} (h : fetchPulse d resolve execute s = o) :
    (∃ t, resolve s = .error t ∧ o = .next (s.raise (.addressOverflow t) d.opcode)) ∨
    (∃ r t, resolve s = .ok r ∧ s.addrAdd s.pc d.length = .error t ∧
      o = .next (s.raise (.addressOverflow t) d.opcode)) ∨
    (∃ r pc', resolve s = .ok r ∧ s.addrAdd s.pc d.length = .ok pc' ∧
      o = .next (State.tick { execute (s.resolved d r) with pc := pc' })) := by
  subst h
  unfold fetchPulse
  cases resolve s with
  | error t => exact .inl ⟨t, rfl, rfl⟩
  | ok r =>
    cases s.addrAdd s.pc d.length with
    | error t => exact .inr (.inl ⟨r, t, rfl, rfl, rfl⟩)
    | ok pc' => exact .inr (.inr ⟨r, pc', rfl, rfl, rfl⟩)

/-- What a step that answers can be: the decrement, an instruction's fetch pulse, or a failed fetch. -/
theorem step_cases {s t : State} (h : step s = .next t) :
    s.fault = none ∧
      ((0 < s.cyc ∧ t = s.tick) ∨
       (s.cyc ≤ 0 ∧ ∃ i, s.fetch = .ok i ∧ exec i s = .next t) ∨
       (s.cyc ≤ 0 ∧ ∃ k, s.fetch = .error k ∧ t = s.raise k (s.memRead s.pc))) := by
  unfold step at h
  cases hf : s.fault with
  | some r => simp [hf] at h
  | none =>
    refine ⟨rfl, ?_⟩
    simp only [hf] at h
    split at h
    · next hc =>
      cases hi : s.fetch with
      | ok i => exact .inr (.inl ⟨hc, i, rfl, by simpa [hi] using h⟩)
      | error k => exact .inr (.inr ⟨hc, k, rfl, by simpa [hi] using h.symm⟩)
    · next hc => exact .inl ⟨by omega, by simpa using h.symm⟩

/-- No pulses leave the state. -/
theorem run_zero (s : State) : Host.Core.run Sys2Proof.core 0 s = .next s :=
  Host.Core.run.eq_1 Sys2Proof.core s

/-- A run of `k + 1` pulses whose first one answers is the run of `k` pulses from there. -/
theorem run_succ {s t : State} (k : Nat) (h : step s = .next t) :
    Host.Core.run Sys2Proof.core (k + 1) s = Host.Core.run Sys2Proof.core k t := by
  have h' : Sys2Proof.core.step s = .next t := h
  rw [Host.Core.run.eq_2 Sys2Proof.core s k, h']

/-- `v` differs from `u` in `A`, `P` and memory at most. -/
def SameOutsideAPMem (u v : State) : Prop :=
  v = { u with a := v.a, p := v.p, mem := v.mem }

theorem executeAdc_frame (m : Byte) (u : State) : SameOutsideAPMem u (executeAdc m u) := rfl

theorem executeAnd_frame (m : Byte) (u : State) : SameOutsideAPMem u (executeAnd m u) := rfl

theorem executeLda_frame (m : Byte) (u : State) : SameOutsideAPMem u (executeLda m u) := rfl

theorem executeSta_frame (u : State) : SameOutsideAPMem u (executeSta u) := rfl

theorem executeAsl_frame (u : State) : SameOutsideAPMem u (executeAsl u) := by
  unfold executeAsl
  split
  · rfl
  · split <;> rfl

/-- No executor writes anything but `A`, `P` and memory (10_state.md R22 to R24, R29, R30). -/
theorem executeOf_frame (i : Instr) (u : State) : SameOutsideAPMem u (executeOf i u) := by
  cases i <;> simp only [executeOf, onMemory] <;> first
    | apply executeAdc_frame
    | apply executeAnd_frame
    | apply executeLda_frame
    | apply executeSta_frame
    | apply executeAsl_frame

end Sys2Proof.Machine
end

