-- ==== Sys2Proof/Laws/PerInstr.lean ====
section
/-! SUPPORT. Facts about each instruction as syntax: its row of the opcode table and its encoding. -/

namespace Sys2Proof.Laws.Encoded

/-- The instruction is well formed, its row stands in the opcode table at its opcode byte (30_encoding.md R71,
R72), the row is well formed, and its encoding has the row's length (R70). -/
def Statement (i : Instr) : Prop :=
  i.wellFormed = true ∧ describe i.descriptor.opcode = some i.descriptor ∧ i.descriptor.wellFormed = true ∧
    (encode i).length = i.length

theorem adcImm (n : Byte) : Statement (.adcImm n) := ⟨rfl, rfl, rfl, rfl⟩
theorem adcZp (n : Byte) : Statement (.adcZp n) := ⟨rfl, rfl, rfl, rfl⟩
theorem adcZpX (n : Byte) : Statement (.adcZpX n) := ⟨rfl, rfl, rfl, rfl⟩
theorem adcAbs (w : Word) : Statement (.adcAbs w) := ⟨rfl, rfl, rfl, rfl⟩
theorem adcAbsX (w : Word) : Statement (.adcAbsX w) := ⟨rfl, rfl, rfl, rfl⟩
theorem adcAbsY (w : Word) : Statement (.adcAbsY w) := ⟨rfl, rfl, rfl, rfl⟩
theorem adcIndX (n : Byte) : Statement (.adcIndX n) := ⟨rfl, rfl, rfl, rfl⟩
theorem adcIndY (n : Byte) : Statement (.adcIndY n) := ⟨rfl, rfl, rfl, rfl⟩
theorem andImm (n : Byte) : Statement (.andImm n) := ⟨rfl, rfl, rfl, rfl⟩
theorem andZp (n : Byte) : Statement (.andZp n) := ⟨rfl, rfl, rfl, rfl⟩
theorem andZpX (n : Byte) : Statement (.andZpX n) := ⟨rfl, rfl, rfl, rfl⟩
theorem andAbs (w : Word) : Statement (.andAbs w) := ⟨rfl, rfl, rfl, rfl⟩
theorem andAbsX (w : Word) : Statement (.andAbsX w) := ⟨rfl, rfl, rfl, rfl⟩
theorem andAbsY (w : Word) : Statement (.andAbsY w) := ⟨rfl, rfl, rfl, rfl⟩
theorem andIndX (n : Byte) : Statement (.andIndX n) := ⟨rfl, rfl, rfl, rfl⟩
theorem andIndY (n : Byte) : Statement (.andIndY n) := ⟨rfl, rfl, rfl, rfl⟩
theorem ldaImm (n : Byte) : Statement (.ldaImm n) := ⟨rfl, rfl, rfl, rfl⟩
theorem ldaZp (n : Byte) : Statement (.ldaZp n) := ⟨rfl, rfl, rfl, rfl⟩
theorem ldaZpX (n : Byte) : Statement (.ldaZpX n) := ⟨rfl, rfl, rfl, rfl⟩
theorem ldaAbs (w : Word) : Statement (.ldaAbs w) := ⟨rfl, rfl, rfl, rfl⟩
theorem ldaAbsX (w : Word) : Statement (.ldaAbsX w) := ⟨rfl, rfl, rfl, rfl⟩
theorem ldaAbsY (w : Word) : Statement (.ldaAbsY w) := ⟨rfl, rfl, rfl, rfl⟩
theorem ldaIndX (n : Byte) : Statement (.ldaIndX n) := ⟨rfl, rfl, rfl, rfl⟩
theorem ldaIndY (n : Byte) : Statement (.ldaIndY n) := ⟨rfl, rfl, rfl, rfl⟩
theorem staZp (n : Byte) : Statement (.staZp n) := ⟨rfl, rfl, rfl, rfl⟩
theorem staZpX (n : Byte) : Statement (.staZpX n) := ⟨rfl, rfl, rfl, rfl⟩
theorem staAbs (w : Word) : Statement (.staAbs w) := ⟨rfl, rfl, rfl, rfl⟩
theorem staAbsX (w : Word) : Statement (.staAbsX w) := ⟨rfl, rfl, rfl, rfl⟩
theorem staAbsY (w : Word) : Statement (.staAbsY w) := ⟨rfl, rfl, rfl, rfl⟩
theorem staIndX (n : Byte) : Statement (.staIndX n) := ⟨rfl, rfl, rfl, rfl⟩
theorem staIndY (n : Byte) : Statement (.staIndY n) := ⟨rfl, rfl, rfl, rfl⟩
theorem aslAcc : Statement (.aslAcc) := ⟨rfl, rfl, rfl, rfl⟩
theorem aslZp (n : Byte) : Statement (.aslZp n) := ⟨rfl, rfl, rfl, rfl⟩
theorem aslZpX (n : Byte) : Statement (.aslZpX n) := ⟨rfl, rfl, rfl, rfl⟩
theorem aslAbs (w : Word) : Statement (.aslAbs w) := ⟨rfl, rfl, rfl, rfl⟩
theorem aslAbsX (w : Word) : Statement (.aslAbsX w) := ⟨rfl, rfl, rfl, rfl⟩

end Sys2Proof.Laws.Encoded
end

