-- ==== Sys2Proof/Laws/Run.lean ====
section
/-! SUPPORT. Runs of pulses: composing them, and how a run stands in a state (49_clock_dispatch.md R202). -/

namespace Sys2Proof.Machine

/-- A run of `j + k` pulses is the run of `k` pulses from the state that `j` pulses lead to. -/
theorem run_add {s t : State} {j : Nat} (k : Nat) (h : Host.Core.run Sys2Proof.core j s = .next t) :
    Host.Core.run Sys2Proof.core (j + k) s = Host.Core.run Sys2Proof.core k t := by
  induction j generalizing s with
  | zero =>
    rw [run_zero] at h
    cases h
    rw [Nat.zero_add]
  | succ n ih =>
    cases hs : step s with
    | next u =>
      rw [run_succ n hs] at h
      rw [show n + 1 + k = (n + k) + 1 by omega, run_succ _ hs, ih h]
    | fault r =>
      have hs' : Sys2Proof.core.step s = .fault r := hs
      rw [Host.Core.run.eq_2 Sys2Proof.core s n, hs'] at h
      cases h
    | refused r =>
      have hs' : Sys2Proof.core.step s = .refused r := hs
      rw [Host.Core.run.eq_2 Sys2Proof.core s n, hs'] at h
      cases h

/-- A faulted state leads nowhere: a run that goes through it has no pulse left. -/
theorem run_faulted {s t : State} {k : Nat} (hf : s.Failed)
    (h : Host.Core.run Sys2Proof.core k s = .next t) : k = 0 := by
  cases k with
  | zero => rfl
  | succ n =>
    cases hr : s.fault with
    | none => exact absurd hr hf
    | some r =>
      have hs : Sys2Proof.core.step s = .fault (.halted r) := by
        show step s = _
        unfold step
        rw [hr]
        rfl
      rw [Host.Core.run.eq_2 Sys2Proof.core s n, hs] at h
      cases h

/-- At an end the run has ended. -/
theorem runStatus_ended {stop : Word} {s : State} (h : s.EndOfRun stop) :
    s.runStatus stop = .ended s := if_pos h

/-- With a fault recorded the run has failed. -/
theorem runStatus_failed {stop : Word} {s : State} (h : s.Failed) : s.runStatus stop = .failed s := by
  unfold State.runStatus
  rw [if_neg (fun he => h he.1.2), if_pos h]

/-- Elsewhere the run goes on. -/
theorem runStatus_running {stop : Word} {s : State} (he : ¬ s.EndOfRun stop) (hf : ¬ s.Failed) :
    s.runStatus stop = .running s := by
  unfold State.runStatus
  rw [if_neg he, if_neg hf]

/-- A run that has ended stays where it is, however many pulses are left. -/
theorem runTo_ended {stop : Word} {s : State} (n : Nat) (h : s.EndOfRun stop) : runTo stop n s = .ended s := by
  cases n with
  | zero => rw [runTo.eq_1, runStatus_ended h]
  | succ n => rw [runTo.eq_2, runStatus_ended h]

/-- So does a run that has failed. -/
theorem runTo_failed {stop : Word} {s : State} (n : Nat) (h : s.Failed) : runTo stop n s = .failed s := by
  cases n with
  | zero => rw [runTo.eq_1, runStatus_failed h]
  | succ n => rw [runTo.eq_2, runStatus_failed h]

/-- A run that stands at neither is pulsed. -/
theorem runTo_step {stop : Word} {s t : State} (n : Nat) (he : ¬ s.EndOfRun stop) (h : step s = .next t) :
    runTo stop (n + 1) s = runTo stop n t := by
  have hf : ¬ s.Failed := fun hf => hf (step_cases h).1
  rw [runTo.eq_2, runStatus_running he hf, h]

end Sys2Proof.Machine
end

