-- ==== Sys2Proof/Tests/Slice0.lean ====
section
/-! SUPPORT. Tests: the well-formedness checks, decoding of words written out from the spec, one pulse on small
states from spec/95_test_vectors.md, and a witness for the hypotheses of every statement that has some. -/

namespace Sys2Proof.Tests

open Sys2Proof.Machine Sys2Proof.Claims

/-- Bytes placed at rising addresses from `a`. -/
def place (s : State) (a : Word) : List Byte → State
  | [] => s
  | b :: rest => place (s.memWrite a b) (a + 1) rest

/-- A boundary with the code `code` at `pc`, all else as initialised (95_test_vectors.md). -/
def boot (ps : Config.Params) (pc : Word) (code : List Byte) : State :=
  place { State.powerOn ps with pc := pc } pc code

/-- The next state of an outcome. -/
def next? : Host.Outcome State Fault Refusal → Option State
  | .next t => some t
  | .fault _ => none
  | .refused _ => none

/-- `EA`, `A`, `P` and `PC` after one pulse. -/
def pulse (s : State) : Option (Word × Byte × Byte × Word) :=
  (next? (step s)).map fun t => (t.ea, t.a, t.p, t.pc)

/-- The `CYC` one pulse leaves, one below the instruction's pulses. -/
def clock (s : State) : Option Int := (next? (step s)).map (·.cyc)

/-- The byte at `a` after one pulse. -/
def byteAfter (s : State) (a : Word) : Option Byte := (next? (step s)).map (·.memRead a)

/-- The fault one pulse records. -/
def faultAfter (s : State) : Option FaultRecord := (next? (step s)).bind (·.fault)

def wrapping (ps : Config.Params) : Config.Params := { ps with addrOverflow := .wrap16 }

/-! ## Well-formedness (30_encoding.md R70 to R72) -/

/-- STA has no Immediate form (R161, 0x89): the pair check refuses it. -/
theorem test_pair_refused : admitted .sta .immediate = false := by decide

theorem test_descriptor_pair_refused :
    Descriptor.wellFormed ⟨0x89, .sta, .immediate, 2, 2, false⟩ = false := by decide

/-- An Immediate row of length 3: the length check refuses it. -/
theorem test_descriptor_length_refused :
    Descriptor.wellFormed ⟨0xA9, .lda, .immediate, 3, 2, false⟩ = false := by decide

/-- A penalty-eligible Zero Page,X row: the eligibility check refuses it. -/
theorem test_descriptor_eligibility_refused :
    Descriptor.wellFormed ⟨0xB5, .lda, .zeroPageX, 2, 4, true⟩ = false := by decide

/-- A word operand in a two-byte format: the operand check refuses it. -/
theorem test_operand_refused : Operand.fits (.word 0x1234) .f2 = false := by decide

theorem test_table_well_formed : opcodeTable.all Descriptor.wellFormed = true ∧ opcodeTable.length = 36 := by decide

/-! ## Decoding, each row's opcode written out bit by bit from R72 -/

theorem test_decode_adc :
    decodeTableWord 8 0b01101001 = some (.adcImm 0) ∧ decodeTableWord 8 0b01100101 = some (.adcZp 0) ∧
    decodeTableWord 8 0b01110101 = some (.adcZpX 0) ∧ decodeTableWord 8 0b01101101 = some (.adcAbs 0) ∧
    decodeTableWord 8 0b01111101 = some (.adcAbsX 0) ∧ decodeTableWord 8 0b01111001 = some (.adcAbsY 0) ∧
    decodeTableWord 8 0b01100001 = some (.adcIndX 0) ∧ decodeTableWord 8 0b01110001 = some (.adcIndY 0) := by decide

theorem test_decode_and :
    decodeTableWord 8 0b00101001 = some (.andImm 0) ∧ decodeTableWord 8 0b00100101 = some (.andZp 0) ∧
    decodeTableWord 8 0b00110101 = some (.andZpX 0) ∧ decodeTableWord 8 0b00101101 = some (.andAbs 0) ∧
    decodeTableWord 8 0b00111101 = some (.andAbsX 0) ∧ decodeTableWord 8 0b00111001 = some (.andAbsY 0) ∧
    decodeTableWord 8 0b00100001 = some (.andIndX 0) ∧ decodeTableWord 8 0b00110001 = some (.andIndY 0) := by decide

theorem test_decode_lda :
    decodeTableWord 8 0b10101001 = some (.ldaImm 0) ∧ decodeTableWord 8 0b10100101 = some (.ldaZp 0) ∧
    decodeTableWord 8 0b10110101 = some (.ldaZpX 0) ∧ decodeTableWord 8 0b10101101 = some (.ldaAbs 0) ∧
    decodeTableWord 8 0b10111101 = some (.ldaAbsX 0) ∧ decodeTableWord 8 0b10111001 = some (.ldaAbsY 0) ∧
    decodeTableWord 8 0b10100001 = some (.ldaIndX 0) ∧ decodeTableWord 8 0b10110001 = some (.ldaIndY 0) := by decide

theorem test_decode_sta :
    decodeTableWord 8 0b10000101 = some (.staZp 0) ∧ decodeTableWord 8 0b10010101 = some (.staZpX 0) ∧
    decodeTableWord 8 0b10001101 = some (.staAbs 0) ∧ decodeTableWord 8 0b10011101 = some (.staAbsX 0) ∧
    decodeTableWord 8 0b10011001 = some (.staAbsY 0) ∧ decodeTableWord 8 0b10000001 = some (.staIndX 0) ∧
    decodeTableWord 8 0b10010001 = some (.staIndY 0) := by decide

theorem test_decode_asl :
    decodeTableWord 8 0b00001010 = some .aslAcc ∧ decodeTableWord 8 0b00000110 = some (.aslZp 0) ∧
    decodeTableWord 8 0b00010110 = some (.aslZpX 0) ∧ decodeTableWord 8 0b00001110 = some (.aslAbs 0) ∧
    decodeTableWord 8 0b00011110 = some (.aslAbsX 0) := by decide

/-- Operand bytes: the low byte of a word first (R56; `BD FF 20`), and bits above `nbits` are dropped. -/
theorem test_decode_operands :
    decodeTableWord 24 0x20FFBD = some (.ldaAbsX 0x20FF) ∧ decodeTableWord 16 0x70A9 = some (.ldaImm 0x70) ∧
    decodeTableWord 8 0x70A9 = some (.ldaImm 0x00) := by decide

/-- Refusals by name: no byte, an unpopulated byte (0x89, R74), a missing operand byte. -/
theorem test_decode_refusals :
    decode [] = .error .noBytes ∧ decode [0x89, 0x00] = .error (.unpopulated 0x89) ∧
    decode [0xA9] = .error (.truncated 0xA9) ∧ decode [0x8D, 0x00] = .error (.truncated 0x8D) := by decide

/-- The encoder, from R78's examples. -/
theorem test_encode :
    encode (.ldaImm 0x70) = [0xA9, 0x70] ∧ encode .aslAcc = [0x0A] ∧ encode (.staAbs 0x0200) = [0x8D, 0x00, 0x02] := by
  decide

/-- Every row's instruction runs as the first after reset, whatever the four open parameters are. -/
theorem test_rows_run_first_after_reset (op : Byte) (h : op ∈ opcodeTable.map (·.opcode)) :
    ∃ i, decodeTableWord 8 op.toNat = some i ∧
      step (State.reset.withFetchWord 8 op.toNat) = exec i (State.reset.withFetchWord 8 op.toNat) := by
  simp only [opcodeTable, adcRows, andRows, ldaRows, staRows, aslRows, List.cons_append, List.nil_append,
    List.map_cons, List.map_nil, List.mem_cons, List.not_mem_nil, or_false] at h
  rcases h with h | h | h | h | h | h | h | h | h | h | h | h | h | h | h | h | h | h | h | h | h | h | h | h | h |
    h | h | h | h | h | h | h | h | h | h | h <;> subst h <;> exact ⟨_, rfl, rfl⟩

/-! ## Pulses, from spec/95_test_vectors.md -/

/-- 2.1: 0x7F + 0x01 overflows; the profiles differ in N. -/
theorem test_adcImm_overflow :
    pulse { boot Config.observed 0x0200 [0x69, 0x01] with a := 0x7F } = some (0x0201, 0x80, 0x40, 0x0202) ∧
    pulse { boot Config.corrected 0x0200 [0x69, 0x01] with a := 0x7F } = some (0x0201, 0x80, 0xC0, 0x0202) := by decide

/-- 2.1: the carry in makes the carry; set-only keeps the stale one. -/
theorem test_adcImm_carry :
    pulse { boot Config.observed 0x0200 [0x69, 0x00] with a := 0xFF, p := 0x01 } =
      some (0x0201, 0xFF, 0x81, 0x0202) ∧
    pulse { boot Config.corrected 0x0200 [0x69, 0x00] with a := 0xFF, p := 0x01 } =
      some (0x0201, 0x00, 0x03, 0x0202) := by decide

/-- P2: 5 + 5. -/
theorem test_adcZp :
    pulse (place { boot Config.observed 0x0004 [0x65, 0x80] with a := 0x05 } 0x80 [0x05]) =
      some (0x0080, 0x0A, 0x00, 0x0006) := by decide

/-- 2.1: `75 F0` wraps in the zero page. -/
theorem test_adcZpX :
    pulse (place { boot Config.observed 0x0200 [0x75, 0xF0] with a := 0x01, x := 0x20 } 0x0010 [0x11]) =
      some (0x0010, 0x12, 0x00, 0x0202) := by decide

theorem test_adcAbs :
    pulse (place { boot Config.corrected 0x0200 [0x6D, 0x34, 0x12] with a := 0x80 } 0x1234 [0x80]) =
      some (0x1234, 0x00, 0x43, 0x0203) := by decide

theorem test_adcAbsX :
    pulse (place { boot Config.observed 0x0200 [0x7D, 0xFF, 0x20] with a := 0xD0, x := 0x01 } 0x2100 [0x90]) =
      some (0x2100, 0x60, 0x41, 0x0203) := by decide

/-- 2.1: `79 34 12`. -/
theorem test_adcAbsY :
    pulse (place { boot Config.corrected 0x0200 [0x79, 0x34, 0x12] with a := 0x03, y := 0x01 } 0x1235 [0x02]) =
      some (0x1235, 0x05, 0x00, 0x0203) := by decide

theorem test_adcIndX :
    pulse (place (place { boot Config.observed 0x0200 [0x61, 0x20] with a := 0x40, x := 0x04 } 0x0024 [0x00, 0x03])
      0x0300 [0xC0]) = some (0x0300, 0x00, 0x03, 0x0202) := by decide

/-- 2.1: `71 FF` under both values of P_ZP_PTR_WRAP. -/
theorem test_adcIndY_pointer :
    (pulse (place { boot Config.observed 0x0200 [0x71, 0xFF] with a := 0x01 } 0x0100 [0x04])).map (·.1) =
      some 0x0000 ∧
    (pulse (place { boot { Config.observed with zpPtrWrap := .linear } 0x0200 [0x71, 0xFF] with a := 0x01 }
      0x0100 [0x04])).map (·.1) = some 0x0400 := by decide

/-- 2.4: a stale N and Z under the two policies. -/
theorem test_andImm :
    pulse { boot Config.observed 0x0200 [0x29, 0x01] with a := 0x01, p := 0x82 } = some (0x0201, 0x01, 0x82, 0x0202) ∧
    pulse { boot Config.corrected 0x0200 [0x29, 0x01] with a := 0x01, p := 0x82 } = some (0x0201, 0x01, 0x00, 0x0202) := by
  decide

theorem test_andZp :
    pulse (place { boot Config.observed 0x0200 [0x25, 0x10] with a := 0x80 } 0x0010 [0xFF]) =
      some (0x0010, 0x80, 0x80, 0x0202) := by decide

theorem test_andZpX :
    pulse (place { boot Config.observed 0x0200 [0x35, 0xFF] with a := 0xFF, x := 0x02, p := 0x41 } 0x0001 [0x0F]) =
      some (0x0001, 0x0F, 0x41, 0x0202) := by decide

theorem test_andAbs :
    pulse (place { boot Config.observed 0x0200 [0x2D, 0x00, 0x03] with a := 0xF0 } 0x0300 [0x0F]) =
      some (0x0300, 0x00, 0x02, 0x0203) := by decide

/-- 2.4: `3D FC 02` crosses: 5 pulses. -/
theorem test_andAbsX :
    pulse (place { boot Config.observed 0x0200 [0x3D, 0xFC, 0x02] with a := 0x02, x := 0x04 } 0x0300 [0x81]) =
      some (0x0300, 0x00, 0x02, 0x0203) ∧
    clock (place { boot Config.observed 0x0200 [0x3D, 0xFC, 0x02] with a := 0x02, x := 0x04 } 0x0300 [0x81]) =
      some 4 := by decide

theorem test_andAbsY :
    pulse (place { boot Config.observed 0x0200 [0x39, 0xF0, 0x03] with a := 0xF3, y := 0x20 } 0x0410 [0x0F]) =
      some (0x0410, 0x03, 0x00, 0x0203) := by decide

theorem test_andIndX :
    pulse (place (place { boot Config.observed 0x0200 [0x21, 0x20] with a := 0xAA, x := 0x04 } 0x0024 [0x00, 0x03])
      0x0300 [0x0F]) = some (0x0300, 0x0A, 0x00, 0x0202) := by decide

/-- 2.4: `31 40` crosses: 6 pulses. -/
theorem test_andIndY :
    pulse (place (place { boot Config.observed 0x0200 [0x31, 0x40] with a := 0xFF, y := 0x01 } 0x0040 [0xFF, 0x12])
      0x1300 [0x0F]) = some (0x1300, 0x0F, 0x00, 0x0202) ∧
    clock (place (place { boot Config.observed 0x0200 [0x31, 0x40] with a := 0xFF, y := 0x01 } 0x0040 [0xFF, 0x12])
      0x1300 [0x0F]) = some 5 := by decide

/-- 2.2: 0x80 over P = 0x02 in both profiles. -/
theorem test_ldaImm :
    pulse { boot Config.observed 0x0200 [0xA9, 0x80] with p := 0x02 } = some (0x0201, 0x80, 0x82, 0x0202) ∧
    pulse { boot Config.corrected 0x0200 [0xA9, 0x80] with p := 0x02 } = some (0x0201, 0x80, 0x80, 0x0202) := by decide

/-- W10: Load-Immediate takes two pulses. -/
theorem test_ldaImm_two_pulses : clock (boot Config.observed 0x0000 [0xA9, 0x05]) = some 1 := by decide

/-- 2.2: `A5 00` at 0x0000 loads its own opcode byte; 3 pulses. -/
theorem test_ldaZp :
    pulse (boot Config.observed 0x0000 [0xA5, 0x00]) = some (0x0000, 0xA5, 0x80, 0x0002) ∧
    clock (boot Config.observed 0x0000 [0xA5, 0x00]) = some 2 := by decide

/-- W1: base 0xFF with X = 0x02. -/
theorem test_ldaZpX :
    pulse (place { boot Config.observed 0x0200 [0xB5, 0xFF] with x := 0x02 } 0x0001 [0x5A]) =
      some (0x0001, 0x5A, 0x00, 0x0202) := by decide

/-- 2.2: `AD` at 0xFFFE, its high operand byte past the top. -/
theorem test_ldaAbs_past_top :
    faultAfter (boot Config.observed 0xFFFE [0xAD, 0x00]) = some ⟨.addressOverflow 0x10000, 0xFFFE, 0xAD⟩ := by decide

/-- W2, W3: the page cross of `BD FF 20` and none of `BD 00 20`. -/
theorem test_ldaAbsX_cross :
    clock { boot Config.observed 0x0200 [0xBD, 0xFF, 0x20] with x := 0x01 } = some 4 ∧
    clock { boot Config.observed 0x0200 [0xBD, 0x00, 0x20] with x := 0x01 } = some 3 := by decide

/-- 2.2: `BD FF FF` with X = 1, under fault and wrap16. -/
theorem test_ldaAbsX_overflow :
    faultAfter { boot Config.observed 0x0200 [0xBD, 0xFF, 0xFF] with x := 0x01 } =
      some ⟨.addressOverflow 0x10000, 0x0200, 0xBD⟩ ∧
    (pulse { boot (wrapping Config.observed) 0x0200 [0xBD, 0xFF, 0xFF] with x := 0x01 }).map (·.1) = some 0x0000 ∧
    clock { boot (wrapping Config.observed) 0x0200 [0xBD, 0xFF, 0xFF] with x := 0x01 } = some 4 := by decide

/-- 2.2: `B9 F0 03`, 5 pulses. -/
theorem test_ldaAbsY :
    (pulse { boot Config.observed 0x0200 [0xB9, 0xF0, 0x03] with y := 0x20 }).map (·.1) = some 0x0410 ∧
    clock { boot Config.observed 0x0200 [0xB9, 0xF0, 0x03] with y := 0x20 } = some 4 := by decide

/-- 2.2: `A1 FB` with X = 4, its pointer at 0xFF. -/
theorem test_ldaIndX_pointer :
    (pulse (place { boot Config.observed 0x0200 [0xA1, 0xFB] with x := 0x04 } 0x0000 [0x04])).map (·.1) =
      some 0x0400 ∧
    (pulse (place { boot { Config.observed with zpPtrWrap := .linear } 0x0200 [0xA1, 0xFB] with x := 0x04 }
      0x0100 [0x05])).map (·.1) = some 0x0500 := by decide

/-- 2.2: `B1 20` with the pointer 0xFFF8 and Y = 0x10. -/
theorem test_ldaIndY_overflow :
    faultAfter (place { boot Config.observed 0x0200 [0xB1, 0x20] with y := 0x10 } 0x0020 [0xF8, 0xFF]) =
      some ⟨.addressOverflow 0x10008, 0x0200, 0xB1⟩ := by decide

theorem test_staZp : byteAfter { boot Config.observed 0x0200 [0x85, 0x10] with a := 0x5C } 0x0010 = some 0x5C := by
  decide

/-- 2.3: `95 80` wraps in the zero page. -/
theorem test_staZpX :
    byteAfter { boot Config.observed 0x0200 [0x95, 0x80] with a := 0x44, x := 0x90 } 0x0010 = some 0x44 ∧
    byteAfter { boot Config.observed 0x0200 [0x95, 0x80] with a := 0x44, x := 0x90 } 0x0110 = some 0x00 := by decide

/-- W8. -/
theorem test_staAbs :
    byteAfter { boot Config.observed 0x0300 [0x8D, 0x00, 0x02] with a := 0x42, p := 0xC3 } 0x0200 = some 0x42 ∧
    pulse { boot Config.observed 0x0300 [0x8D, 0x00, 0x02] with a := 0x42, p := 0xC3 } =
      some (0x0200, 0x42, 0xC3, 0x0303) := by decide

/-- 2.3: `9D FF 20` takes 5 pulses although it crosses. -/
theorem test_staAbsX :
    byteAfter { boot Config.observed 0x0200 [0x9D, 0xFF, 0x20] with a := 0x01, x := 0x01 } 0x2100 = some 0x01 ∧
    clock { boot Config.observed 0x0200 [0x9D, 0xFF, 0x20] with a := 0x01, x := 0x01 } = some 4 := by decide

theorem test_staAbsY :
    byteAfter { boot Config.observed 0x0200 [0x99, 0xFF, 0x12] with a := 0x77, y := 0x01 } 0x1300 = some 0x77 := by
  decide

/-- 2.3: `81 FF`, the pointer's high byte at 0x0000. -/
theorem test_staIndX :
    byteAfter (place { boot Config.observed 0x0200 [0x81, 0xFF] with a := 0x66 } 0x0000 [0x05]) 0x0500 =
      some 0x66 := by decide

/-- 2.3: `91 20`, 6 pulses. -/
theorem test_staIndY :
    byteAfter (place { boot Config.observed 0x0200 [0x91, 0x20] with a := 0x09, y := 0x10 } 0x0020 [0xF8, 0x02])
      0x0308 = some 0x09 ∧
    clock (place { boot Config.observed 0x0200 [0x91, 0x20] with a := 0x09, y := 0x10 } 0x0020 [0xF8, 0x02]) =
      some 5 := by decide

/-- W6, W7, with EA the address of the opcode and EA_ACC set. -/
theorem test_aslAcc :
    pulse { boot Config.observed 0x0002 [0x0A] with a := 0x70 } = some (0x0002, 0xE0, 0x80, 0x0003) ∧
    pulse { boot Config.corrected 0x0002 [0x0A] with a := 0x80 } = some (0x0002, 0x00, 0x03, 0x0003) ∧
    (next? (step { boot Config.observed 0x0002 [0x0A] with a := 0x70 })).map (·.eaAcc) = some true := by decide

/-- 2.5: `06 10` writes A under OBSERVED and memory under CORRECTED. -/
theorem test_aslZp :
    pulse (place { boot Config.observed 0x0200 [0x06, 0x10] with a := 0x33 } 0x0010 [0x81]) =
      some (0x0010, 0x02, 0x01, 0x0202) ∧
    byteAfter (place { boot Config.observed 0x0200 [0x06, 0x10] with a := 0x33 } 0x0010 [0x81]) 0x0010 = some 0x81 := by
  decide

theorem test_aslZp_source :
    pulse (place { boot Config.corrected 0x0200 [0x06, 0x10] with a := 0x33 } 0x0010 [0x81]) =
      some (0x0010, 0x33, 0x01, 0x0202) ∧
    byteAfter (place { boot Config.corrected 0x0200 [0x06, 0x10] with a := 0x33 } 0x0010 [0x81]) 0x0010 =
      some 0x02 := by decide

/-- 2.5: `16 F0`. -/
theorem test_aslZpX :
    pulse (place { boot Config.observed 0x0200 [0x16, 0xF0] with x := 0x20 } 0x0010 [0xC1]) =
      some (0x0010, 0x82, 0x81, 0x0202) := by decide

/-- 2.5: `0E 00 03` at 0x0300 overwrites its own opcode: its EA equals PC but EA_ACC is 0 (D11). -/
theorem test_aslAbs_own_opcode :
    byteAfter (boot Config.corrected 0x0300 [0x0E, 0x00, 0x03]) 0x0300 = some 0x1C ∧
    pulse (boot Config.observed 0x0300 [0x0E, 0x00, 0x03]) = some (0x0300, 0x1C, 0x00, 0x0303) := by decide

/-- 2.7: a fault discards the write. -/
theorem test_aslAbsX_overflow :
    byteAfter (place { boot Config.corrected 0x0200 [0x1E, 0xFF, 0xFF] with x := 0x01 } 0x0000 [0x81]) 0x0000 =
      some 0x81 ∧
    faultAfter (place { boot Config.corrected 0x0200 [0x1E, 0xFF, 0xFF] with x := 0x01 } 0x0000 [0x81]) =
      some ⟨.addressOverflow 0x10000, 0x0200, 0x1E⟩ := by decide

/-- 2.5: under wrap16 the same instruction writes 0x0000; 7 pulses. -/
theorem test_aslAbsX_wraps :
    byteAfter (place { boot (wrapping Config.corrected) 0x0200 [0x1E, 0xFF, 0xFF] with x := 0x01 } 0x0000 [0x81])
      0x0000 = some 0x02 ∧
    clock (place { boot (wrapping Config.corrected) 0x0200 [0x1E, 0xFF, 0xFF] with x := 0x01 } 0x0000 [0x81]) =
      some 6 := by decide

/-- 2.6: a launch with CYC = -1 fetches. -/
theorem test_negative_clock_is_idle :
    clock { boot Config.observed 0x0000 [0xA9, 0x05] with cyc := -1 } = some 1 := by decide

/-- 2.6: an unpopulated byte is recorded with PC kept. -/
theorem test_unpopulated :
    faultAfter (boot Config.observed 0x0200 [0x4C]) = some ⟨.unimplementedOpcode, 0x0200, 0x4C⟩ ∧
    (pulse (boot Config.observed 0x0200 [0x4C])).map (·.2.2.2) = some 0x0200 := by decide

/-- 2.6: the PC advance past the top, under fault (rolled back) and wrap16. -/
theorem test_pc_advance_past_top :
    faultAfter (boot Config.observed 0xFFFE [0xA9, 0x01]) = some ⟨.addressOverflow 0x10000, 0xFFFE, 0xA9⟩ ∧
    (pulse (boot Config.observed 0xFFFE [0xA9, 0x01])).map (·.2.1) = some 0x00 ∧
    pulse (boot (wrapping Config.observed) 0xFFFE [0xA9, 0x01]) = some (0xFFFF, 0x01, 0x00, 0x0000) := by decide

/-- 40_addressing_modes.md R126, R130, R133: the three resolvers no opcode uses, from their rules' examples. -/
theorem test_unused_resolvers :
    resolveZpY 0xFF { boot Config.observed 0x0200 [0xFF, 0xFF] with y := 0x02 } = .ok (plainResult 0x0001) ∧
    resolveInd 0x0300 (place (boot Config.observed 0x0200 [0xFF, 0x00, 0x03]) 0x0300 [0x34, 0x12]) =
      .ok (plainResult 0x1234) ∧
    resolveRel 0xFE (boot Config.observed 0x0100 [0xFF, 0xFE]) = .ok (plainResult 0x00FF) := ⟨rfl, rfl, rfl⟩

/-- 30_encoding.md R72, 49 R198: StepInstr of `A9 70` ends with CYC = 0. -/
theorem test_step_instr :
    (next? (stepInstr (boot Config.observed 0x0000 [0xA9, 0x70]))).map (fun t => (t.a, t.pc, t.cyc)) =
      some (0x70, 0x0002, 0) := by decide

/-! ## Witnesses: for each statement with hypotheses, a state and operands that meet them -/

/-- LDA #$70 at 0x0200 under OBSERVED. -/
def lda : State := boot Config.observed 0x0200 [0xA9, 0x70]

/-- LDA #$70 at the top of memory, its opcode at 0xFFFF, under wrap16. -/
def ldaTop : State := boot (wrapping Config.corrected) 0xFFFF [0xA9, 0x70]

theorem witness_EncodeOfDecode : decode [0xA9, 0x70, 0x0A] = .ok (.ldaImm 0x70, [0x0A]) := rfl

theorem witness_Descriptors : describe 0x91 = some descStaIndY ∧ describe 0xB1 = some descLdaIndY := by decide

theorem witness_AddrAdd :
    addrAdd .fault 0xFFFF 0 = .ok 0xFFFF ∧ addrAdd .fault 0x0000 (-0) = .ok 0x0000 ∧
    addrAdd .wrap16 0xFFFF 1 = .ok 0x0000 ∧ addrAdd .wrap16 0x0000 (-1) = .ok 0xFFFF ∧
    addrAdd .fault 0xFFFF 1 = .error 0x10000 ∧ addrAdd .fault 0x0000 (-1) = .error (-1) :=
  ⟨rfl, rfl, rfl, rfl, rfl, rfl⟩

theorem witness_ReadSixteen :
    lda.addrAdd 0xFFFE 1 = .ok 0xFFFF ∧ lda.addrAdd 0xFFFF 1 = .error 0x10000 := ⟨rfl, rfl⟩

theorem witness_ZeroPagePointer :
    (boot Config.observed 0x0200 []).params.zpPtrWrap = .wrap ∧
    (boot { Config.observed with zpPtrWrap := .linear } 0x0200 []).params.zpPtrWrap = .linear := by decide

/-- The operand reads of both formats, ok and past the top. -/
theorem witness_operand_reads :
    operandByteRead lda = .ok 0x70 ∧ operandByteRead (boot Config.observed 0xFFFF [0xA5]) = .error 0x10000 ∧
    operandWordRead (boot Config.observed 0x0200 [0xAD, 0x34, 0x12]) = .ok 0x1234 ∧
    operandWordRead (boot Config.observed 0xFFFE [0xAD, 0x34]) = .error 0x10000 := ⟨rfl, rfl, rfl, rfl⟩

/-- The corners of Absolute and Immediate, under each policy. -/
theorem witness_resolver_corners :
    (boot Config.observed 0xFFFE [0xAD, 0x34]).pc = 0xFFFE ∧
    (boot Config.observed 0xFFFE [0xAD, 0x34]).params.addrOverflow = .fault ∧
    (boot (wrapping Config.observed) 0xFFFE [0xAD, 0x34]).pc = 0xFFFE ∧
    (boot (wrapping Config.observed) 0xFFFE [0xAD, 0x34]).params.addrOverflow = .wrap16 ∧
    (boot Config.observed 0xFFFF [0xA9]).pc = 0xFFFF ∧ ldaTop.pc = 0xFFFF ∧
    ldaTop.params.addrOverflow = .wrap16 := by decide

/-- The corners of the indexed modes: a sum past the top under each policy, and a zero index. -/
theorem witness_index_corners :
    (0xFFFF : Word).toNat + (0x01 : Byte).toNat > 0xFFFF ∧
    (indexedResult lda 0xFFFF 0x01 = .error 0x10000) ∧
    (indexedResult ldaTop 0xFFFF 0x01 = .ok ⟨0x0000, false, true⟩) ∧
    (indexedResult lda 0x20FF 0x00 = .ok ⟨0x20FF, false, false⟩) := ⟨by decide, rfl, rfl, rfl⟩

/-- Indirect,Y: the operand read with Y = 0, and a pointer past the top under each policy. -/
theorem witness_IndirectY :
    operandByteRead (boot Config.observed 0x0200 [0xB1, 0x20]) = .ok 0x20 ∧
    (boot Config.observed 0x0200 [0xB1, 0x20]).y = 0 ∧
    ((place { boot Config.observed 0x0200 [0xB1, 0x20] with y := 0x10 } 0x20 [0xF8, 0xFF]).readZp16 0x20).toNat + 0x10 >
      0xFFFF ∧
    ((place { boot (wrapping Config.observed) 0x0200 [0xB1, 0x20] with y := 0x10 } 0x20 [0xF8, 0xFF]).readZp16
      0x20).toNat + 0x10 > 0xFFFF := ⟨rfl, by decide, by decide, by decide⟩

theorem witness_ImmediateOperand :
    operandByteRead lda = .ok 0x70 ∧ lda.addrAdd lda.pc 1 = .ok 0x0201 := ⟨rfl, rfl⟩

theorem witness_Indirect :
    operandWordRead (boot Config.observed 0x0200 [0x6C, 0xFF, 0x03]) = .ok 0x03FF ∧
    (boot Config.observed 0x0200 [0x6C, 0xFF, 0x03]).params.indPtrWrap = .linear ∧
    (boot { Config.observed with indPtrWrap := .pageWrap } 0x0200 [0x6C, 0xFF, 0x03]).params.indPtrWrap = .pageWrap ∧
    operandWordRead (boot { Config.observed with indPtrWrap := .pageWrap } 0x0200 [0x6C, 0xFF, 0x03]) = .ok 0x03FF :=
  ⟨rfl, by decide, by decide, rfl⟩

theorem witness_FlagWrite :
    (boot Config.observed 0 []).params.flags = .setOnly ∧ (boot Config.corrected 0 []).params.flags = .clearThenSet := by
  decide

theorem witness_SetOnlyStep :
    { lda with p := 0x02 }.params.flags = .setOnly ∧ (next? (step { lda with p := 0x02 })).isSome = true ∧
    { lda with p := 0x02 }.p.getLsbD 1 = true := by decide

/-- Each result statement, in range at the last PC that is, and under wrap16 past the top. -/
theorem witness_ldaResult :
    (Instr.ldaImm 0x70).mnemonic = .lda ∧ AddressesInRange (.ldaImm 0x70) lda ∧
    AddressesInRange (.ldaImm 0x70) (boot Config.observed 0xFFFD [0xA9, 0x70]) ∧
    AddressesInRange (.ldaImm 0x70) ldaTop ∧
    AddressesInRange (.ldaAbsX 0xFFFE) { lda with x := 0x01 } := by decide

theorem witness_ldaFetch : lda.fetch = .ok (.ldaImm 0x70) ∧ ldaTop.fetch = .ok (.ldaImm 0x70) := ⟨rfl, rfl⟩

theorem witness_adcResult : (Instr.adcZp 0x10).mnemonic = .adc ∧ AddressesInRange (.adcZp 0x10) lda := by decide

theorem witness_staResult : (Instr.staAbs 0x0200).mnemonic = .sta ∧ AddressesInRange (.staAbs 0x0200) lda := by decide

theorem witness_andResult :
    (Instr.andImm 0x0F).mnemonic = .and ∧ AddressesInRange (.andImm 0x0F) lda ∧
    (boot Config.observed 0x0200 [0x29, 0x0F]).fetch = .ok (.andImm 0x0F) := ⟨by decide, by decide, rfl⟩

theorem witness_aslAccResult : AddressesInRange .aslAcc (boot Config.observed 0xFFFE [0x0A]) := by decide

theorem witness_aslMemResult :
    (Instr.aslZp 0x10).mnemonic = .asl ∧ (Instr.aslZp 0x10).mode ≠ .accumulator ∧ AddressesInRange (.aslZp 0x10) lda ∧
    lda.params.aslDest = .accumulator ∧
    AddressesInRange (.aslAbs 0x0200) (boot Config.corrected 0x0200 [0x0E, 0x00, 0x02]) ∧
    (boot Config.corrected 0x0200 [0x0E, 0x00, 0x02]).params.aslDest = .source := by decide

theorem witness_frames :
    storesNothing (.aslZp 0x10) (boot Config.observed 0x0200 []) ∧
    (next? (exec (.aslZp 0x10) (boot Config.observed 0x0200 []))).isSome = true ∧
    ¬ storesNothing (.aslZp 0x10) (boot Config.corrected 0x0200 []) ∧
    (next? (exec (.aslZp 0x10) (boot Config.corrected 0x0200 []))).isSome = true ∧
    ¬ storesNothing (.staZp 0x10) lda ∧ (next? (exec (.staZp 0x10) lda)).isSome = true := by decide

theorem witness_step_answers : (next? (step lda)).isSome = true := by decide

theorem witness_ScratchNeverRead : AddressesInRange (.ldaImm 0x70) lda ∧ lda.ea ≠ 0x1234 := by decide

/-- The stored byte is unpopulated, and in program P5 of the spec it is the populated 0x0A. -/
theorem witness_StoreIsSeen :
    (Instr.staAbs 0x0203).mnemonic = .sta ∧ AddressesInRange (.staAbs 0x0203) lda ∧
    effectiveAddress (.staAbs 0x0203) lda = lda.pc + BitVec.ofNat 16 (Instr.staAbs 0x0203).length ∧
    describe { lda with a := 0xEA }.a = none ∧
    ((next? (exec (.staAbs 0x0203) { lda with a := 0x0A })).map fun t => (State.fetch { t with cyc := 0 }).toOption) =
      some (some .aslAcc) :=
  ⟨by decide, by decide, by decide, by decide, rfl⟩

/-- The last PC whose operand bytes are inside the space, and past it under wrap16. -/
theorem witness_StepRuns :
    (boot Config.observed 0xFFFE [0xA9, 0x70]).AtBoundary ∧
    decode (window (boot Config.observed 0xFFFE [0xA9, 0x70])) = .ok (.ldaImm 0x70, [0x00]) ∧
    (boot Config.observed 0xFFFE [0xA9, 0x70]).pc.toNat + (Instr.ldaImm 0x70).length ≤ 65536 ∧
    ldaTop.AtBoundary ∧ decode (window ldaTop) = .ok (.ldaImm 0x70, [0x00]) ∧ ldaTop.params.addrOverflow = .wrap16 :=
  ⟨by decide, rfl, by decide, by decide, rfl, by decide⟩

theorem witness_EveryPulse :
    { lda with cyc := 1 }.fault = none ∧ 0 < { lda with cyc := 1 }.cyc ∧ lda.AtBoundary ∧
    lda.fetch = .ok (.ldaImm 0x70) ∧ AddressesInRange (.ldaImm 0x70) lda :=
  ⟨by decide, by decide, by decide, rfl, by decide⟩

theorem witness_Faulted :
    { lda with fault := some ⟨.unimplementedOpcode, 0x0004, 0xEA⟩ }.fault = some ⟨.unimplementedOpcode, 0x0004, 0xEA⟩ := by
  decide

theorem witness_Unpopulated :
    (boot Config.observed 0x0004 [0xEA]).AtBoundary ∧
    describe ((boot Config.observed 0x0004 [0xEA]).memRead (boot Config.observed 0x0004 [0xEA]).pc) = none := by decide

/-- One operand byte past the top at 0xFFFF, and the second of two at 0xFFFE. -/
theorem witness_OperandPastTop :
    (boot Config.observed 0xFFFF [0xA9]).AtBoundary ∧ (boot Config.observed 0xFFFF [0xA9]).params.addrOverflow = .fault ∧
    describe ((boot Config.observed 0xFFFF [0xA9]).memRead 0xFFFF) = some descLdaImm ∧
    0xFFFF + descLdaImm.length > 65536 ∧
    describe ((boot Config.observed 0xFFFE [0xAD]).memRead 0xFFFE) = some descLdaAbs ∧
    0xFFFE + descLdaAbs.length > 65536 := by decide

/-- Each clause: an operand byte past the top, the indexed sum, the PC advance. -/
theorem witness_AddressOverflow :
    ¬ AddressesInRange (.ldaImm 0x70) { lda with pc := 0xFFFF } ∧
    ¬ AddressesInRange (.ldaAbsX 0xFFFF) { lda with x := 0x01 } ∧ indexSum (.ldaAbsX 0xFFFF) { lda with x := 0x01 } > 65535 ∧
    ¬ AddressesInRange (.ldaImm 0x70) { lda with pc := 0xFFFE } ∧
    ({ lda with pc := 0xFFFE } : State).pc.toNat + (Instr.ldaImm 0x70).length = 65536 := by decide

theorem witness_FaultRecorded :
    ((next? (step (boot Config.observed 0x0004 [0xEA]))).map (·.fault) ≠ some none) ∧
    faultAfter (boot Config.observed 0x0004 [0xEA]) = some ⟨.unimplementedOpcode, 0x0004, 0xEA⟩ ∧
    faultAfter (boot Config.observed 0xFFFE [0xA9, 0x01]) = some ⟨.addressOverflow 0x10000, 0xFFFE, 0xA9⟩ := by decide

theorem witness_Unfaulted : lda.fault = none ∧ { lda with cyc := 7 }.fault = none := by decide

/-- The cheapest and the dearest instruction. -/
theorem witness_InstructionCost :
    lda.AtBoundary ∧ lda.fetch = .ok (.ldaImm 0x70) ∧ AddressesInRange (.ldaImm 0x70) lda ∧
    cost (.ldaImm 0x70) lda = 2 ∧ (boot Config.observed 0x0200 [0x1E, 0x00, 0x20]).AtBoundary ∧
    (boot Config.observed 0x0200 [0x1E, 0x00, 0x20]).fetch = .ok (.aslAbsX 0x2000) ∧
    cost (.aslAbsX 0x2000) (boot Config.observed 0x0200 [0x1E, 0x00, 0x20]) = 7 :=
  ⟨by decide, rfl, by decide, by decide, by decide, rfl, by decide⟩

theorem witness_StepInstr :
    lda.AtBoundary ∧ (boot Config.observed 0x0004 [0xEA]).AtBoundary := by decide

theorem witness_MemoryCanonical :
    Memory.wf lda.mem ∧ lda.mem ≠ [] ∧ (next? (step lda)).isSome = true := by decide

theorem witness_ClockRange :
    { lda with cyc := 0 }.ClockInRange ∧ { lda with cyc := 6 }.ClockInRange ∧
    (next? (step { lda with cyc := 6 })).isSome = true := by decide

/-! ## Runs (49_clock_dispatch.md R202) -/

/-- Program P1 of the spec: it ends after the 4 pulses of its two instructions with A = 0xE0, PC = 0x0003. -/
def p1 : State := boot Config.observed 0x0000 [0xA9, 0x70, 0x0A]

/-- `A`, `P` and `PC` where a run ended. -/
def endOf : RunResult → Option (Byte × Byte × Word)
  | .ended t => some (t.a, t.p, t.pc)
  | .failed _ => none
  | .running _ => none

theorem test_run_P1 : endOf (runTo 0x0003 4 p1) = some (0xE0, 0x80, 0x0003) := by decide

/-- Program P6 of the spec, under wrap16 and under fault. -/
theorem test_run_P6 :
    endOf (runTo 0x0000 2 (boot (wrapping Config.observed) 0xFFFE [0xA9, 0x01])) = some (0x01, 0x00, 0x0000) ∧
    runTo 0x0000 2 (boot Config.observed 0xFFFE [0xA9, 0x01]) =
      .failed { boot Config.observed 0xFFFE [0xA9, 0x01] with fault := some ⟨.addressOverflow 0x10000, 0xFFFE, 0xA9⟩ } := by
  decide

/-- A launch boundary whose run ends, goes on, and fails. -/
theorem witness_RunTo :
    p1.AtBoundary ∧ (endOf (runTo 0x0003 4 p1)).isSome = true ∧ endOf (runTo 0x0003 3 p1) = none ∧
    (boot Config.observed 0xFFFE [0xA9, 0x01]).AtBoundary := by decide

/-- The LDA of P1 alone, as a run of its own with STOP = 0x0002: it ends after 2 pulses. -/
theorem witness_RunHasAtMostOneEnd : ∃ t, RunEnds 0x0002 p1 2 t := by
  refine ⟨_, ⟨by decide, rfl, ?_⟩, by decide⟩
  intro j u hj hu
  obtain rfl | rfl : j = 0 ∨ j = 1 := by omega
  · cases hu
    decide
  · cases hu
    decide

/-- A fault of the first pulse is a failed run. -/
theorem witness_RunFails : ∃ t, RunFails 0x0000 (boot Config.observed 0xFFFE [0xA9, 0x01]) 1 t := by
  refine ⟨_, ⟨by decide, rfl, ?_⟩, by decide⟩
  intro j u hj hu
  obtain rfl : j = 0 := by omega
  cases hu
  decide

/-- Each clause: at the stop address, before an instruction, before a fault. -/
theorem witness_RunGoes :
    p1.EndOfRun 0x0000 ∧ p1.AtBoundary ∧ p1.pc ≠ 0x0003 ∧ p1.fetch = .ok (.ldaImm 0x70) ∧
    AddressesInRange (.ldaImm 0x70) p1 ∧ (boot Config.observed 0x0004 [0xEA]).AtBoundary ∧
    (boot Config.observed 0x0004 [0xEA]).pc ≠ 0x0005 ∧
    faultAfter (boot Config.observed 0x0004 [0xEA]) ≠ none :=
  ⟨by decide, by decide, by decide, rfl, by decide, by decide, by decide, by decide⟩

end Sys2Proof.Tests
end

section
/-! Zero-page arithmetic (20_memory.md R54): what the zero-page resolvers answer once the operand byte is read. -/

namespace Sys2Proof.Machine

/-- Byte addition is the sum modulo 256, also as a zero-page address. -/
theorem toNat_zeroExtend16_add (n i : Byte) : (zeroExtend16 (n + i)).toNat = (n.toNat + i.toNat) % 256 := by
  rw [toNat_zeroExtend16, BitVec.toNat_add]

/-- A zero-extended byte is an address in the zero page. -/
theorem toNat_zeroExtend16_le (b : Byte) : (zeroExtend16 b).toNat ≤ 0x00FF := by
  rw [toNat_zeroExtend16]
  exact Nat.le_of_lt_succ b.isLt

/-- An operand byte that is read was read at an address (R73). -/
theorem operandAddr1_ok_of_operandByteRead {s : State} {n : Byte} (h : Claims.operandByteRead s = .ok n) :
    ∃ a, s.operandAddr1 = .ok a := by
  unfold Claims.operandByteRead at h
  unfold State.operandAddr1
  cases hadd : s.addrAdd s.pc 1 with
  | ok a => exact ⟨a, rfl⟩
  | error t => simp [hadd] at h

variable {s : State} {a : Word}

theorem resolveZpX_of_operandAddr1 (n : Byte) (h : s.operandAddr1 = .ok a) :
    resolveZpX n s = .ok (atAddress (zeroExtend16 (n + s.x))) := by
  simp [resolveZpX, h]

theorem resolveZpY_of_operandAddr1 (n : Byte) (h : s.operandAddr1 = .ok a) :
    resolveZpY n s = .ok (atAddress (zeroExtend16 (n + s.y))) := by
  simp [resolveZpY, h]

theorem resolveIndX_of_operandAddr1 (n : Byte) (h : s.operandAddr1 = .ok a) :
    resolveIndX n s = .ok (atAddress (s.readZp16 (n + s.x))) := by
  simp [resolveIndX, h]

end Sys2Proof.Machine

namespace Sys2Proof.Proofs

open Sys2Proof.Machine

/-- Settles O13: each resolver adds bytes, never through `AddrAdd`. -/
theorem zeroPageArithmeticIsModulo256 : Obligations.ZeroPageArithmeticIsModulo256 := by
  intro s n hread
  obtain ⟨a, haddr⟩ := operandAddr1_ok_of_operandByteRead hread
  refine ⟨⟨_, resolveZpX_of_operandAddr1 n haddr, ?_, ?_⟩, ⟨_, resolveZpY_of_operandAddr1 n haddr, ?_, ?_⟩,
    ⟨_, n + s.x, resolveIndX_of_operandAddr1 n haddr, ?_, rfl⟩⟩
  · exact toNat_zeroExtend16_add n s.x
  · exact toNat_zeroExtend16_le (n + s.x)
  · exact toNat_zeroExtend16_add n s.y
  · exact toNat_zeroExtend16_le (n + s.y)
  · exact BitVec.toNat_add n s.x

end Sys2Proof.Proofs
end

section
/-! The operand addresses (30_encoding.md R73), and the resolvers that raise nothing of their own
(40_addressing_modes.md R124 to R127, R131): each is in range or overflows with the operand's address. -/

namespace Sys2Proof.Machine

variable {s : State} {a b : Word} {t : Int}

/-- Reading the operand byte fails only with the overflow of its address (R73). -/
theorem operandAddr1_error_of_operandByteRead (h : Claims.operandByteRead s = .error t) :
    s.operandAddr1 = .error t := by
  unfold Claims.operandByteRead at h
  unfold State.operandAddr1
  cases hadd : s.addrAdd s.pc 1 with
  | ok a => simp [hadd] at h
  | error u => simpa [hadd] using h

theorem operandAddr2_of_operandAddr1 (h : s.operandAddr1 = .ok a) : s.operandAddr2 = s.addrAdd a 1 := by
  simp [State.operandAddr2, h]

theorem operandAddr2_of_operandAddr1_error (h : s.operandAddr1 = .error t) : s.operandAddr2 = .error t := by
  simp [State.operandAddr2, h]

theorem read16_of_addrAdd (h : s.addrAdd a 1 = .ok b) :
    s.read16 a = .ok (joinBytes (s.memRead b) (s.memRead a)) := by
  simp [State.read16, h]

theorem read16_of_addrAdd_error (h : s.addrAdd a 1 = .error t) : s.read16 a = .error t := by
  simp [State.read16, h]

theorem operandWordRead_of_operandAddr1 (h : s.operandAddr1 = .ok a) :
    Claims.operandWordRead s = s.read16 a := by
  simp [Claims.operandWordRead, show s.addrAdd s.pc 1 = .ok a from h]

theorem operandWordRead_of_operandAddr1_error (h : s.operandAddr1 = .error t) :
    Claims.operandWordRead s = .error t := by
  simp [Claims.operandWordRead, show s.addrAdd s.pc 1 = .error t from h]

/-- Reading the operand word either has both byte addresses, and is little-endian, or fails with the overflow of
the second address (R73, R55). -/
theorem operandWordRead_cases (s : State) :
    (∃ a b, s.operandAddr1 = .ok a ∧ s.operandAddr2 = .ok b ∧
      Claims.operandWordRead s = .ok (joinBytes (s.memRead b) (s.memRead a))) ∨
    (∃ t, s.operandAddr2 = .error t ∧ Claims.operandWordRead s = .error t) := by
  cases h1 : s.operandAddr1 with
  | error t =>
    exact .inr ⟨t, operandAddr2_of_operandAddr1_error h1, operandWordRead_of_operandAddr1_error h1⟩
  | ok a =>
    rw [operandAddr2_of_operandAddr1 h1, operandWordRead_of_operandAddr1 h1]
    cases h2 : s.addrAdd a 1 with
    | ok b => exact .inl ⟨a, b, rfl, rfl, read16_of_addrAdd h2⟩
    | error t => exact .inr ⟨t, rfl, read16_of_addrAdd_error h2⟩

/-- An operand word that is read has a second byte, read at an address. -/
theorem operandAddr2_ok_of_operandWordRead {w : Word} (h : Claims.operandWordRead s = .ok w) :
    ∃ b, s.operandAddr2 = .ok b := by
  obtain ⟨_, b, _, h2, _⟩ | ⟨t, _, herr⟩ := operandWordRead_cases s
  · exact ⟨b, h2⟩
  · simp [herr] at h

/-- Reading the operand word fails only with the overflow of its second byte's address. -/
theorem operandAddr2_error_of_operandWordRead (h : Claims.operandWordRead s = .error t) :
    s.operandAddr2 = .error t := by
  obtain ⟨_, _, _, _, hok⟩ | ⟨u, h2, herr⟩ := operandWordRead_cases s
  · simp [hok] at h
  · rw [h2, ← herr, h]

/-! ## The resolvers, by the address of their last operand byte -/

theorem resolveZp_of_operandAddr1 (n : Byte) (h : s.operandAddr1 = .ok a) :
    resolveZp n s = .ok (atAddress (zeroExtend16 n)) := by
  simp [resolveZp, h]

theorem resolveZp_of_operandAddr1_error (n : Byte) (h : s.operandAddr1 = .error t) :
    resolveZp n s = .error t := by
  simp [resolveZp, h]

theorem resolveZpX_of_operandAddr1_error (n : Byte) (h : s.operandAddr1 = .error t) :
    resolveZpX n s = .error t := by
  simp [resolveZpX, h]

theorem resolveZpY_of_operandAddr1_error (n : Byte) (h : s.operandAddr1 = .error t) :
    resolveZpY n s = .error t := by
  simp [resolveZpY, h]

theorem resolveIndX_of_operandAddr1_error (n : Byte) (h : s.operandAddr1 = .error t) :
    resolveIndX n s = .error t := by
  simp [resolveIndX, h]

theorem resolveAbs_of_operandAddr2 (w : Word) (h : s.operandAddr2 = .ok b) :
    resolveAbs w s = .ok (atAddress w) := by
  simp [resolveAbs, h]

theorem resolveAbs_of_operandAddr2_error (w : Word) (h : s.operandAddr2 = .error t) :
    resolveAbs w s = .error t := by
  simp [resolveAbs, h]

/-! ## The corner of a three-byte instruction at 0xFFFE (R127) -/

/-- At 0xFFFE the first operand byte is the last byte of the space, under either policy. -/
theorem operandAddr1_at_FFFE (hpc : s.pc = 0xFFFE) : s.operandAddr1 = .ok 0xFFFF := by
  unfold State.operandAddr1
  rw [hpc]
  exact addrAdd_eq_ok (.inr (by decide))

/-- One past the last address raises under `fault`. -/
theorem addrAdd_FFFF_one_of_fault (hp : s.params.addrOverflow = .fault) : s.addrAdd 0xFFFF 1 = .error 0x10000 :=
  addrAdd_eq_error hp (.inr (by decide))

/-- One past the last address is 0x0000 under `wrap16`. -/
theorem addrAdd_FFFF_one_of_wrap16 (hp : s.params.addrOverflow = .wrap16) : s.addrAdd 0xFFFF 1 = .ok 0x0000 :=
  addrAdd_eq_ok (.inl hp)

end Sys2Proof.Machine

namespace Sys2Proof

/-- Every instruction is in a mode its mnemonic is admitted in (R72). -/
theorem Instr.mode_mem_modes (i : Instr) : i.mode ∈ i.mnemonic.modes := by
  cases i <;> simp [Instr.mode, Instr.mnemonic, Mnemonic.modes]

/-- A mode that no mnemonic is admitted in is the mode of no instruction (40_addressing_modes.md R136). -/
theorem Instr.mode_ne_of_not_mem_modes {md : Mode} (h : ∀ m : Mnemonic, md ∉ m.modes) (i : Instr) :
    i.mode ≠ md := by
  rintro rfl
  exact h i.mnemonic i.mode_mem_modes

theorem Mnemonic.zeroPageY_not_mem_modes (m : Mnemonic) : Mode.zeroPageY ∉ m.modes := by
  cases m <;> decide

end Sys2Proof

namespace Sys2Proof.Proofs

open Sys2Proof.Machine

/-- Settles O14: with the operand's address in range EA is the zero-extended operand, else that address is raised. -/
theorem zeroPageResolver : Obligations.ZeroPageResolver := by
  refine fun s => ⟨fun n hread => ?_, fun n t herr => ?_⟩
  · obtain ⟨a, haddr⟩ := operandAddr1_ok_of_operandByteRead hread
    exact ⟨resolveZp_of_operandAddr1 n haddr, toNat_zeroExtend16 n⟩
  · exact resolveZp_of_operandAddr1_error n (operandAddr1_error_of_operandByteRead herr)

/-- Settles O15: both indices are added as bytes, and no mnemonic's mode list holds Zero Page,Y. -/
theorem indexedZeroPageResolvers : Obligations.IndexedZeroPageResolvers := by
  refine ⟨fun s => ⟨fun n hread => ?_, fun n t herr => ?_⟩, ?_⟩
  · obtain ⟨a, haddr⟩ := operandAddr1_ok_of_operandByteRead hread
    exact ⟨zeroExtend16 (n + s.x), zeroExtend16 (n + s.y),
      resolveZpX_of_operandAddr1 n haddr, toNat_zeroExtend16_add n s.x,
      resolveZpY_of_operandAddr1 n haddr, toNat_zeroExtend16_add n s.y⟩
  · have haddr := operandAddr1_error_of_operandByteRead herr
    exact ⟨resolveZpX_of_operandAddr1_error n haddr, resolveZpY_of_operandAddr1_error n haddr⟩
  · exact Instr.mode_ne_of_not_mem_modes Mnemonic.zeroPageY_not_mem_modes

/-- Settles O16: the resolver follows the second operand byte's address, which at 0xFFFE is one past 0xFFFF. -/
theorem absoluteResolver : Obligations.AbsoluteResolver := by
  refine fun s => ⟨fun w hread => ?_, fun w t herr => ?_, fun hpc hp => ?_, fun hpc hp => ?_⟩
  · obtain ⟨b, haddr⟩ := operandAddr2_ok_of_operandWordRead hread
    exact resolveAbs_of_operandAddr2 w haddr
  · exact resolveAbs_of_operandAddr2_error w (operandAddr2_error_of_operandWordRead herr)
  · rw [operandWordRead_of_operandAddr1 (operandAddr1_at_FFFE hpc)]
    exact read16_of_addrAdd_error (addrAdd_FFFF_one_of_fault hp)
  · rw [operandWordRead_of_operandAddr1 (operandAddr1_at_FFFE hpc)]
    exact read16_of_addrAdd (addrAdd_FFFF_one_of_wrap16 hp)

/-- Settles O18: the pointer's address is a byte sum, and reading the pointer raises nothing. -/
theorem indirectXResolver : Obligations.IndirectXResolver := by
  refine fun s => ⟨fun n hread => ?_, fun n t herr => ?_⟩
  · obtain ⟨a, haddr⟩ := operandAddr1_ok_of_operandByteRead hread
    exact ⟨n + s.x, BitVec.toNat_add n s.x, resolveIndX_of_operandAddr1 n haddr⟩
  · exact resolveIndX_of_operandAddr1_error n (operandAddr1_error_of_operandByteRead herr)

end Sys2Proof.Proofs
end

section
/-! The opcode table read by opcode (30_encoding.md R71, R72). -/

namespace Sys2Proof

theorem describe_opcode {d : Descriptor} (h : d ∈ opcodeTable) : describe d.opcode = some d := by
  revert d
  decide

/-- Looking an opcode up finds exactly the rows of the table that stand at it. -/
theorem describe_eq_some_iff {op : Byte} {d : Descriptor} :
    describe op = some d ↔ d ∈ opcodeTable ∧ d.opcode = op := by
  constructor
  · intro h
    exact ⟨List.mem_of_find?_eq_some h, by simpa using List.find?_some h⟩
  · rintro ⟨h, rfl⟩
    exact describe_opcode h

/-- The encodings of a mnemonic are the opcodes and modes of its rows. -/
theorem encodings_of_rows {m : Mnemonic} {rows : List (Byte × Mode)}
    (h : (opcodeTable.filter fun d => d.instr = m).map (fun d => (d.opcode, d.mode)) = rows) :
    Claims.Encodings m rows := by
  intro op md
  subst h
  simp only [describe_eq_some_iff, List.mem_map, List.mem_filter, decide_eq_true_eq, Prod.mk.injEq]
  constructor
  · rintro ⟨d, ⟨hd, hop⟩, hm, hmd⟩
    exact ⟨d, ⟨hd, hm⟩, hop, hmd⟩
  · rintro ⟨d, ⟨hd, hm⟩, hop, hmd⟩
    exact ⟨d, ⟨hd, hop⟩, hm, hmd⟩

/-- The operand a format makes of the bytes at PC+1 and PC+2 (R73). -/
def Format.operand (l h : Byte) : Format → Operand
  | .f1 => .none
  | .f2 => .byte l
  | .f3 => .word (joinBytes h l)

/-- An assembled instruction has the mode it was assembled for, and its format's operand (R73). -/
theorem mode_operand_of_assemble {m : Mnemonic} {md : Mode} {l h : Byte} {i : Instr}
    (hi : assemble m md l h = .ok i) : i.mode = md ∧ i.operand = md.format.operand l h := by
  unfold assemble at hi
  split at hi <;> cases hi <;> exact ⟨rfl, rfl⟩

/-- An instruction is as long as its mode's format (R70). -/
theorem Instr.length_eq (i : Instr) : i.length = i.mode.format.length := by
  cases i <;> rfl

/-- A mode that the mnemonic is not admitted in is not the instruction's (R72). -/
theorem Instr.mode_ne {i : Instr} {md : Mode} (h : md ∉ i.mnemonic.modes) : i.mode ≠ md := by
  rintro rfl
  exact h i.mode_mem_modes

/-- An F2 operand fills one byte: its word is that byte, zero-extended (R73). -/
theorem Instr.zeroExtend16_loByte_operand {i : Instr} (h : i.mode.format = .f2) :
    Machine.zeroExtend16 (loByte (Machine.Operand.asWord i.operand)) = Machine.Operand.asWord i.operand := by
  have hfits : i.operand.fits i.mode.format = true := by cases i <;> rfl
  cases ho : i.operand with
  | byte n => exact congrArg Machine.zeroExtend16 (Machine.loByte_zeroExtend16 n)
  | none => simp [h, ho, Operand.fits] at hfits
  | word w => simp [h, ho, Operand.fits] at hfits

end Sys2Proof
end

section
/-! The operand byte of a fetched instruction (30_encoding.md R73; 49_clock_dispatch.md R191). -/

namespace Sys2Proof.Machine

variable {s : State} {i : Instr}

/-- A fetch that answers found the opcode's row, read its operand bytes and decoded them. -/
theorem fetch_ok (h : s.fetch = .ok i) :
    ∃ d operands rest, describe (s.memRead s.pc) = some d ∧ s.fetchOperands d.mode.format = .ok operands ∧
      decode (s.memRead s.pc :: operands) = .ok (i, rest) := by
  unfold State.fetch at h
  split at h
  · cases h
  · next d hd =>
    split at h
    · cases h
    · next operands hops =>
      split at h
      · next rest hdec => exact ⟨d, operands, rest, hd, hops, by rw [hdec, Except.ok.inj h]⟩
      · cases h

/-- What decodes was assembled from the row at its opcode, an F2 row with the byte that follows. -/
theorem assemble_of_decode {op : Byte} {bytes rest : List Byte} {d : Descriptor} (hd : describe op = some d)
    (h : decode (op :: bytes) = .ok (i, rest)) :
    ∃ l r, assemble d.instr d.mode l r = .ok i ∧ (d.mode.format = .f2 → bytes.head? = some l) := by
  have of_map {l r : Byte} {tail : List Byte}
      (h : (assemble d.instr d.mode l r).map (fun i => (i, tail)) = .ok (i, rest)) :
      assemble d.instr d.mode l r = .ok i := by
    cases ha : assemble d.instr d.mode l r with
    | ok j => simp [ha, Except.map] at h; rw [h.1]
    | error e => simp [ha, Except.map] at h
  cases hf : d.mode.format with
  | f1 =>
    simp only [decode, hd, hf] at h
    exact ⟨0, 0, of_map h, nofun⟩
  | f2 =>
    cases bytes with
    | nil => simp [decode, hd, hf] at h
    | cons l tail =>
      simp only [decode, hd, hf] at h
      exact ⟨l, 0, of_map h, fun _ => rfl⟩
  | f3 =>
    match bytes with
    | [] => simp [decode, hd, hf] at h
    | [_] => simp [decode, hd, hf] at h
    | l :: r :: tail =>
      simp only [decode, hd, hf] at h
      exact ⟨l, r, of_map h, nofun⟩

/-- The operand of a fetched F2 instruction is the byte at its address (R73). -/
theorem operand_of_fetch_f2 (h : s.fetch = .ok i) (hf : i.mode.format = .f2) :
    ∃ a, s.operandAddr1 = .ok a ∧ i.operand = .byte (s.memRead a) := by
  obtain ⟨d, operands, rest, hd, hops, hdec⟩ := fetch_ok h
  obtain ⟨l, r, hi, hl⟩ := assemble_of_decode hd hdec
  obtain ⟨hmode, hoperand⟩ := mode_operand_of_assemble hi
  rw [hmode] at hf
  rw [hf] at hops hoperand
  cases haddr : s.operandAddr1 with
  | error t => simp [State.fetchOperands, haddr] at hops
  | ok a =>
    simp only [State.fetchOperands, haddr] at hops
    cases hops
    have hbyte : s.memRead a = l := by simpa using hl hf
    exact ⟨a, rfl, by rw [hoperand, hbyte]; rfl⟩

end Sys2Proof.Machine
end

section
/-! What an instruction does when no address of it overflows (20_memory.md R53): the resolver answers the
effective address, the executor gets the operand value, and the pulse completes. -/

namespace Sys2Proof.Machine

variable {s : State} {i : Instr}

/-! ## Addresses in range -/

theorem addrAdd_natCast_eq_ok {a : Word} {k : Nat} (h : s.params.addrOverflow = .wrap16 ∨ a.toNat + k ≤ 65535) :
    s.addrAdd a k = .ok (a + BitVec.ofNat 16 k) := by
  unfold State.addrAdd
  rw [addrAdd_eq_ok (h.imp_right fun _ => by omega), BitVec.ofInt_natCast]

/-- Every address from PC to past the instruction is in range (R194). -/
theorem AddressesInRange.addrAdd_pc_eq_ok (h : AddressesInRange i s) {k : Nat} (hk : k ≤ i.length) :
    s.addrAdd s.pc k = .ok (s.pc + BitVec.ofNat 16 k) :=
  addrAdd_natCast_eq_ok (h.imp_right fun ⟨hpc, _⟩ => by omega)

theorem AddressesInRange.operandAddr1_eq_ok (h : AddressesInRange i s) (hlen : 2 ≤ i.length) :
    s.operandAddr1 = .ok (s.pc + 1) :=
  h.addrAdd_pc_eq_ok (k := 1) (by omega)

theorem AddressesInRange.operandAddr2_eq_ok (h : AddressesInRange i s) (hlen : 3 ≤ i.length) :
    s.operandAddr2 = .ok (s.pc + 1 + 1) := by
  rw [operandAddr2_of_operandAddr1 (h.operandAddr1_eq_ok (by omega))]
  refine addrAdd_natCast_eq_ok (k := 1) (h.imp_right fun ⟨hpc, _⟩ => ?_)
  rw [BitVec.toNat_add, show (1 : Word).toNat = 1 from rfl]
  omega

/-- Indexing in range gives the sum, with the page cross of R134. -/
theorem indexed_eq_ok {b : Word} {k : Byte} (h : s.params.addrOverflow = .wrap16 ∨ b.toNat + k.toNat ≤ 65535) :
    s.indexed b k = .ok { ea := b + zeroExtend16 k, acc := false, cross := pageCross b k } := by
  have hk : BitVec.ofNat 16 k.toNat = zeroExtend16 k := BitVec.ofNat_toNat 16 k
  simp [State.indexed, addrAdd_natCast_eq_ok h, hk]

/-! ## The resolver -/

theorem resolveImm_of_operandAddr1 {a : Word} (h : s.operandAddr1 = .ok a) : resolveImm s = .ok (atAddress a) := by
  simp [resolveImm, h]

theorem resolveAbsX_of_operandAddr2 {b : Word} (w : Word) (h : s.operandAddr2 = .ok b) :
    resolveAbsX w s = s.indexed w s.x := by
  simp [resolveAbsX, h]

theorem resolveAbsY_of_operandAddr2 {b : Word} (w : Word) (h : s.operandAddr2 = .ok b) :
    resolveAbsY w s = s.indexed w s.y := by
  simp [resolveAbsY, h]

theorem resolveIndY_of_operandAddr1 {a : Word} (n : Byte) (h : s.operandAddr1 = .ok a) :
    resolveIndY n s = s.indexed (s.readZp16 n) s.y := by
  simp [resolveIndY, h]

/-- The resolver of a mode, on the operand as a word (40_addressing_modes.md R122 to R133). -/
def resolveMode (w : Word) : Mode → State → Except Int Resolved
  | .immediate => resolveImm
  | .accumulator => resolveAcc
  | .zeroPage => resolveZp (loByte w)
  | .zeroPageX => resolveZpX (loByte w)
  | .zeroPageY => resolveZpY (loByte w)
  | .absolute => resolveAbs w
  | .absoluteX => resolveAbsX w
  | .absoluteY => resolveAbsY w
  | .indirect => resolveInd w
  | .indirectX => resolveIndX (loByte w)
  | .indirectY => resolveIndY (loByte w)
  | .relative => resolveRel (loByte w)

/-- The mode alone selects the resolver (49_clock_dispatch.md R203). -/
theorem resolveOf_eq_resolveMode (i : Instr) :
    resolveOf i = resolveMode (Operand.asWord i.operand) i.mode := by
  cases i <;> simp [resolveOf, resolveMode, Instr.mode, Instr.operand, Operand.asWord]

/-- What the resolver answers where no address overflows. -/
def resultOf (i : Instr) (s : State) : Resolved :=
  { ea := effectiveAddress i s, acc := i.mode == .accumulator, cross := crossesPage i s }

theorem AddressesInRange.indexTerms_sum (h : AddressesInRange i s) {b : Word} {k : Byte}
    (hterms : indexTerms s (Operand.asWord i.operand) i.mode = some (b, k)) :
    s.params.addrOverflow = .wrap16 ∨ b.toNat + k.toNat ≤ 65535 :=
  h.imp_right fun ⟨_, hsum⟩ => by simpa [indexSum, hterms] using hsum

/-- In range the resolver answers the effective address. -/
theorem AddressesInRange.resolveOf_eq_ok (h : AddressesInRange i s) : resolveOf i s = .ok (resultOf i s) := by
  have addr1 {md : Mode} (hm : i.mode = md) (hf : md.format = .f2) : s.operandAddr1 = .ok (s.pc + 1) :=
    h.operandAddr1_eq_ok (by simp [Instr.length_eq, hm, hf, Format.length])
  have addr2 {md : Mode} (hm : i.mode = md) (hf : md.format = .f3) : s.operandAddr2 = .ok (s.pc + 1 + 1) :=
    h.operandAddr2_eq_ok (by simp [Instr.length_eq, hm, hf, Format.length])
  have index {md : Mode} (hm : i.mode = md) {b : Word} {k : Byte}
      (ht : indexTerms s (Operand.asWord i.operand) md = some (b, k)) :=
    indexed_eq_ok (h.indexTerms_sum (hm ▸ ht))
  rw [resolveOf_eq_resolveMode, resultOf, effectiveAddress, crossesPage]
  cases hm : i.mode with
  | immediate => exact resolveImm_of_operandAddr1 (addr1 hm rfl)
  | accumulator => rfl
  | zeroPage =>
    have hw : zeroExtend16 (loByte (Operand.asWord i.operand)) = Operand.asWord i.operand :=
      Instr.zeroExtend16_loByte_operand (by rw [hm]; rfl)
    rw [resolveMode, resolveZp_of_operandAddr1 _ (addr1 hm rfl), hw]
    rfl
  | zeroPageX => exact resolveZpX_of_operandAddr1 _ (addr1 hm rfl)
  | zeroPageY => exact resolveZpY_of_operandAddr1 _ (addr1 hm rfl)
  | absolute => exact resolveAbs_of_operandAddr2 _ (addr2 hm rfl)
  | absoluteX => exact (resolveAbsX_of_operandAddr2 _ (addr2 hm rfl)).trans (index hm rfl)
  | absoluteY => exact (resolveAbsY_of_operandAddr2 _ (addr2 hm rfl)).trans (index hm rfl)
  | indirect => exact absurd hm (Instr.mode_ne (by cases i.mnemonic <;> decide))
  | indirectX => exact resolveIndX_of_operandAddr1 _ (addr1 hm rfl)
  | indirectY => exact (resolveIndY_of_operandAddr1 _ (addr1 hm rfl)).trans (index hm rfl)
  | relative => exact absurd hm (Instr.mode_ne (by cases i.mnemonic <;> decide))

/-! ## The executor -/

/-- The executor of a mnemonic, on the byte it operates on: STA has none, and ASL reads its own. -/
def executeMnemonic : Mnemonic → Byte → State → State
  | .adc => executeAdc
  | .and => executeAnd
  | .lda => executeLda
  | .sta => fun _ => executeSta
  | .asl => fun _ => executeAsl

/-- The state in which the executor runs where no address overflows (R192, 10_state.md R30). -/
abbrev resolvedState (i : Instr) (s : State) : State := s.resolved i.descriptor (resultOf i s)

/-- The executor's state on the operand value where no address overflows. -/
def executedState (i : Instr) (s : State) : State :=
  executeMnemonic i.mnemonic (operandValue i s) (resolvedState i s)

@[simp] theorem State.resolved_memRead (s : State) (d : Descriptor) (r : Resolved) (a : Word) :
    (s.resolved d r).memRead a = s.memRead a := rfl

/-- An Immediate executor gets the operand byte, the others the byte at EA (R59). -/
theorem executeOf_resolvedState (i : Instr) (s : State) :
    executeOf i (resolvedState i s) = executedState i s := by
  cases i <;> simp [executeOf, onMemory, executedState, executeMnemonic, operandValue, resultOf, Instr.mode,
    Instr.mnemonic, Instr.operand, Operand.asWord]

/-- In range every instruction completes, with the `A`, `P` and memory its executor leaves (R191, R195). -/
theorem AddressesInRange.exec_completed (h : AddressesInRange i s) :
    ∃ t, exec i s = .next t ∧ Completed i s t ∧ t.a = (executedState i s).a ∧ t.p = (executedState i s).p ∧
      t.mem = (executedState i s).mem := by
  have hframe : SameOutsideAPMem (resolvedState i s) (executedState i s) :=
    executeOf_resolvedState i s ▸ executeOf_frame i (resolvedState i s)
  have hexec : exec i s = .next (State.tick { executedState i s with pc := s.pc + BitVec.ofNat 16 i.length }) := by
    have hpc : s.addrAdd s.pc i.descriptor.length = _ := h.addrAdd_pc_eq_ok (le_refl i.length)
    simp only [exec_eq_fetchPulse, fetchPulse, h.resolveOf_eq_ok, hpc]
    rw [executeOf_resolvedState]
    rfl
  refine ⟨_, hexec, ?_, rfl, rfl, rfl⟩
  constructor
  case pc => rfl
  case cyc => exact (congrArg (fun u => u.cyc - 1) hframe :)
  case ea => exact (congrArg State.ea hframe :)
  case eaAcc => exact (congrArg State.eaAcc hframe :)
  case x => exact (congrArg State.x hframe :)
  case y => exact (congrArg State.y hframe :)
  case sp => exact (congrArg State.sp hframe :)
  case fault => exact (congrArg State.fault hframe :)
  case params => exact (congrArg State.params hframe :)

/-! ## The operand value and the flags -/

/-- The operand value of a fetched instruction is the byte at its effective address; Immediate mode reads the
byte it was fetched with (40_addressing_modes.md R122). -/
theorem AddressesInRange.operandValue_of_fetch (h : AddressesInRange i s) (hacc : i.mode ≠ .accumulator)
    (hfetch : s.fetch = .ok i) : operandValue i s = s.memRead (effectiveAddress i s) := by
  cases hm : i.mode with
  | immediate =>
    have hf : i.mode.format = .f2 := by rw [hm]; rfl
    obtain ⟨a, haddr, hoperand⟩ := operand_of_fetch_f2 hfetch hf
    have hpc := h.operandAddr1_eq_ok (by simp [Instr.length_eq, hf, Format.length])
    have ha : a = s.pc + 1 := Except.ok.inj (haddr.symm.trans hpc)
    simp [operandValue, effectiveAddress, modeAddress, hm, hoperand, Operand.asWord, ha]
  | accumulator => exact absurd hm hacc
  | _ => simp [operandValue, hm]

theorem flagAfter_eq_flagValue (s : State) (k : Nat) (c : Bool) :
    Claims.flagAfter s k c = flagValue s.params.flags (s.p.getLsbD k) c := by
  unfold Claims.flagAfter flagValue
  cases s.params.flags <;> rfl

/-- Writing Negative and Zero of a result byte, bit by bit (10_state.md R31). -/
theorem State.flagsNZ_bit (s : State) (r : Byte) (k : Nat) :
    (s.flagsNZ r).p.getLsbD k =
      if k = 1 then Claims.flagAfter s 1 (decide (r = 0))
      else if k = 7 then Claims.flagAfter s 7 (r.getLsbD 7)
      else s.p.getLsbD k := by
  have hneg : r.msb = r.getLsbD 7 := BitVec.msb_eq_getLsbD_last r
  unfold State.flagsNZ
  rw [State.flagWrite_bit, State.flagWrite_bit, flagAfter_eq_flagValue, flagAfter_eq_flagValue, hneg]
  by_cases h1 : k = 1
  · subst h1
    rfl
  · by_cases h7 : k = 7
    · subst h7
      rfl
    · simp [flagBit, h1, h7]

end Sys2Proof.Machine

namespace Sys2Proof.Proofs

open Sys2Proof.Machine

/-- Settles O26: in range LDA completes with its executor's state, and the operand of a fetched Immediate form is the
byte at EA. -/
theorem ldaLoadsAndWritesNZ : Obligations.LdaLoadsAndWritesNZ := by
  refine ⟨encodings_of_rows (by decide), fun i s hm hrange => ?_⟩
  have hacc : i.mode ≠ .accumulator := Instr.mode_ne (by rw [hm]; decide)
  obtain ⟨t, hexec, hcompleted, ha, hp, hmem⟩ := hrange.exec_completed
  simp only [executedState, hm, executeMnemonic, executeLda] at ha hp hmem
  have hbit (k : Nat) := congrArg (BitVec.getLsbD · k) hp
  simp only [State.flagsNZ_bit] at hbit
  refine ⟨hrange.operandValue_of_fetch hacc, t, hexec, hcompleted, ?_, hmem, ha, hbit 7, hbit 1, ?_⟩
  · exact hcompleted.eaAcc.trans (beq_false_of_ne hacc)
  · intro k hk
    obtain ⟨h1, h7⟩ : k ≠ 1 ∧ k ≠ 7 := by simpa using hk
    simpa [h1, h7] using hbit k

end Sys2Proof.Proofs
end

section
/-! The logical instruction (43_logical.md). -/

namespace Sys2Proof.Proofs

open Sys2Proof.Machine

/-- Settles O28: in range AND completes with its executor's state, whose flags are those of the new `A` (R170). -/
theorem andMasksAndWritesNZ : Obligations.AndMasksAndWritesNZ := by
  refine ⟨encodings_of_rows (by decide), fun i s hm hrange => ?_⟩
  have hacc : i.mode ≠ .accumulator := Instr.mode_ne (by rw [hm]; decide)
  obtain ⟨t, hexec, hcompleted, ha, hp, hmem⟩ := hrange.exec_completed
  simp only [executedState, hm, executeMnemonic, executeAnd, State.flagsNZ_a, State.resolved_a] at ha hp hmem
  have hbit (k : Nat) := congrArg (BitVec.getLsbD · k) hp
  simp only [State.flagsNZ_bit, ← ha] at hbit
  refine ⟨hrange.operandValue_of_fetch hacc, t, hexec, hcompleted, ?_, hmem, ?_, hbit 7, hbit 1, ?_⟩
  · exact hcompleted.eaAcc.trans (beq_false_of_ne hacc)
  · intro k
    rw [ha, BitVec.getLsbD_and]
  · intro k hk
    obtain ⟨h1, h7⟩ : k ≠ 1 ∧ k ≠ 7 := by simpa using hk
    simpa [h1, h7] using hbit k

end Sys2Proof.Proofs
end

section
/-! The pulse engine (49_clock_dispatch.md R191): which pulse a step is, and what it leaves in `CYC`. -/

namespace Sys2Proof.Machine

variable {s : State}

/-- A pulse that is no fetch pulse is the decrement (R195). -/
theorem step_of_executing (hfault : s.fault = none) (hcyc : 0 < s.cyc) : step s = .next s.tick := by
  simp [step, hfault, not_le.mpr hcyc]

/-- At a boundary a step is the meaning of the instruction fetched at PC (R191). -/
theorem step_of_fetch {i : Instr} (hidle : s.AtBoundary) (hfetch : s.fetch = .ok i) : step s = exec i s := by
  obtain ⟨hcyc, hfault⟩ := hidle
  simp [step, hfault, hcyc, hfetch]

end Sys2Proof.Machine

namespace Sys2Proof.Proofs

open Sys2Proof.Machine

/-- Settles O39: an Executing pulse is the decrement, and a fetch pulse in range completes its instruction. -/
theorem everyPulseDecrementsTheClock : Obligations.EveryPulseDecrementsTheClock := by
  refine ⟨fun _ => step_of_executing, fun s i hidle hfetch hrange => ?_⟩
  obtain ⟨t, hexec, hcompleted, -⟩ := hrange.exec_completed
  exact ⟨t, (step_of_fetch hidle hfetch).trans hexec, hcompleted.cyc⟩

end Sys2Proof.Proofs
end

section
/-! What a fetch pulse answers (49_clock_dispatch.md R191): it is discarded with its fault recorded
(60_exceptions.md R224), or every address of it was in range and its instruction completed. -/

namespace Sys2Proof.Machine

variable {s t : State} {i : Instr}

/-- A mode that indexes answers what the indexing of its base answers (R128, R129, R132). -/
theorem indexed_ok_of_resolveMode_ok {w b : Word} {k : Byte} {md : Mode} {r : Resolved}
    (hterms : indexTerms s w md = some (b, k)) (h : resolveMode w md s = .ok r) : s.indexed b k = .ok r := by
  cases md with
  | absoluteX =>
    cases hterms
    cases haddr : s.operandAddr2 with
    | ok a => exact (resolveAbsX_of_operandAddr2 _ haddr).symm.trans h
    | error e => simp [resolveMode, resolveAbsX, haddr] at h
  | absoluteY =>
    cases hterms
    cases haddr : s.operandAddr2 with
    | ok a => exact (resolveAbsY_of_operandAddr2 _ haddr).symm.trans h
    | error e => simp [resolveMode, resolveAbsY, haddr] at h
  | indirectY =>
    cases hterms
    cases haddr : s.operandAddr1 with
    | ok a => exact (resolveIndY_of_operandAddr1 _ haddr).symm.trans h
    | error e => simp [resolveMode, resolveIndY, haddr] at h
  | _ => cases hterms

/-- Under `fault` a sum that `AddrAdd` answers is an address (R53). -/
theorem addrAdd_natCast_le_of_ok {a w : Word} {k : Nat} (hp : s.params.addrOverflow = .fault)
    (h : s.addrAdd a k = .ok w) : a.toNat + k ≤ 65535 := by
  have := (addrAdd_ok h).2 hp
  omega

/-- Under `fault` a resolver that answers had its indexed sum in range. -/
theorem indexSum_le_of_resolveOf_ok {r : Resolved} (hp : s.params.addrOverflow = .fault)
    (h : resolveOf i s = .ok r) : indexSum i s ≤ 65535 := by
  rw [resolveOf_eq_resolveMode] at h
  unfold indexSum
  split
  · next b k hterms =>
    have hindexed := indexed_ok_of_resolveMode_ok hterms h
    cases hadd : s.addrAdd b k.toNat with
    | ok ea => exact addrAdd_natCast_le_of_ok hp hadd
    | error e => simp [State.indexed, hadd] at hindexed
  · exact Nat.zero_le _

/-- Where the resolver and the PC advance both answer, every address was in range. -/
theorem addressesInRange_of_ok {r : Resolved} {pc' : Word} (hr : resolveOf i s = .ok r)
    (hpc : s.addrAdd s.pc i.length = .ok pc') : AddressesInRange i s := by
  cases hp : s.params.addrOverflow with
  | wrap16 => exact .inl hp
  | fault => exact .inr ⟨addrAdd_natCast_le_of_ok hp hpc, indexSum_le_of_resolveOf_ok hp hr⟩

/-- A fetch pulse answers a next state: with its fault recorded and nothing else changed, or in range. -/
theorem exec_cases (i : Instr) (s : State) :
    (∃ kind, exec i s = .next (s.raise kind i.descriptor.opcode)) ∨ AddressesInRange i s := by
  rw [exec_eq_fetchPulse]
  obtain ⟨e, -, h⟩ | ⟨r, e, -, -, h⟩ | ⟨r, pc', hr, hpc, -⟩ :=
    fetchPulse_cases (d := i.descriptor) (resolve := resolveOf i) (execute := executeOf i) (s := s) rfl
  · exact .inl ⟨_, h⟩
  · exact .inl ⟨_, h⟩
  · exact .inr (addressesInRange_of_ok hr hpc)

/-- Every instruction answers a next state (60_exceptions.md R231). -/
theorem exec_answers (i : Instr) (s : State) : ∃ t, exec i s = .next t := by
  obtain ⟨kind, h⟩ | hrange := exec_cases i s
  · exact ⟨_, h⟩
  · obtain ⟨t, h, -⟩ := hrange.exec_completed
    exact ⟨t, h⟩

/-- What an instruction's next state can be: the state before it but for the fault, or the completed instruction
with the `A`, `P` and memory of its executor. -/
theorem exec_next_cases (h : exec i s = .next t) :
    t = { s with fault := t.fault } ∨
      (Completed i s t ∧ t.a = (executedState i s).a ∧ t.p = (executedState i s).p ∧
        t.mem = (executedState i s).mem) := by
  obtain ⟨kind, hraise⟩ | hrange := exec_cases i s
  · cases hraise.symm.trans h
    exact .inl rfl
  · obtain ⟨u, hu, hcompleted⟩ := hrange.exec_completed
    cases hu.symm.trans h
    exact .inr hcompleted

theorem Completed.unwrittenKept (h : Completed i s t) : Claims.UnwrittenKept s t :=
  ⟨h.x, h.y, h.sp, h.params⟩

/-- A failed fetch at a boundary records its fault and changes nothing else (R221, R222, R224). -/
theorem step_of_fetch_error {kind : FaultKind} (hidle : s.AtBoundary) (hfetch : s.fetch = .error kind) :
    step s = .next (s.raise kind (s.memRead s.pc)) := by
  obtain ⟨hcyc, hfault⟩ := hidle
  simp [step, hfault, hcyc, hfetch]

end Sys2Proof.Machine

namespace Sys2Proof.Proofs

open Sys2Proof.Machine

/-- Settles O46: a pulse is the decrement, an instruction, which always answers, or a failed fetch. -/
theorem unfaultedPulseAlwaysAnswers : Obligations.UnfaultedPulseAlwaysAnswers := by
  intro s hfault
  by_cases hcyc : 0 < s.cyc
  · exact ⟨_, step_of_executing hfault hcyc⟩
  · have hidle : s.AtBoundary := ⟨not_lt.mp hcyc, hfault⟩
    cases hfetch : s.fetch with
    | ok i =>
      rw [step_of_fetch hidle hfetch]
      exact exec_answers i s
    | error kind => exact ⟨_, step_of_fetch_error hidle hfetch⟩

end Sys2Proof.Proofs
end

section
/-! The frame of the executors: the bits of P each mnemonic writes, and what it stores. -/

namespace Sys2Proof.Machine

open Sys2Proof.Claims

variable {s t : State} {i : Instr}

/-- The bits of P each executor writes (41_arithmetic.md R150, 42_load_store.md R160 and R161, 43_logical.md R170,
44_shift.md R180). -/
def writtenBits : Mnemonic → List Nat
  | .adc => [0, 1, 6, 7]
  | .and => [1, 7]
  | .lda => [1, 7]
  | .sta => []
  | .asl => [0, 1, 7]

/-- No mnemonic writes bits 2 to 5 of P (10_state.md R26 to R28). -/
theorem not_mem_writtenBits {m : Mnemonic} {k : Nat} (h2 : 2 ≤ k) (h5 : k ≤ 5) : k ∉ writtenBits m := by
  cases m <;> simp [writtenBits] <;> omega

/-- Only ADC writes Overflow (R150). -/
theorem six_not_mem_writtenBits {m : Mnemonic} (h : m ≠ .adc) : 6 ∉ writtenBits m := by
  cases m with
  | adc => exact absurd rfl h
  | _ => decide

theorem State.flagsNZ_bit_of_ne (s : State) (r : Byte) {k : Nat} (h1 : k ≠ 1) (h7 : k ≠ 7) :
    (s.flagsNZ r).p.getLsbD k = s.p.getLsbD k := by
  simp [State.flagsNZ_bit, h1, h7]

theorem State.flagWrite_bit_of_ne (s : State) (f : Flag) (c : Bool) {k : Nat} (h : k ≠ flagBit f) :
    (s.flagWrite f c).p.getLsbD k = s.p.getLsbD k := by
  rw [State.flagWrite_bit, if_neg h]

theorem executeAdc_statusKept (m : Byte) (u : State) : StatusKept u (executeAdc m u) (writtenBits .adc) := by
  intro k hk
  obtain ⟨h0, h1, h6, h7⟩ : k ≠ 0 ∧ k ≠ 1 ∧ k ≠ 6 ∧ k ≠ 7 := by simpa [writtenBits] using hk
  unfold executeAdc
  rw [State.flagWrite_bit_of_ne _ .n _ h7, State.flagWrite_bit_of_ne _ .v _ h6, State.flagWrite_bit_of_ne _ .z _ h1,
    State.flagWrite_bit_of_ne _ .c _ h0]

/-- ASL's P is that of its flags, wherever its result goes. -/
theorem executeAsl_p (u : State) :
    (executeAsl u).p = (u.aslFlags (if u.eaAcc then u.a else u.memRead u.ea)).p := by
  unfold executeAsl
  split
  · rfl
  · split <;> rfl

theorem executeAsl_statusKept (u : State) : StatusKept u (executeAsl u) (writtenBits .asl) := by
  intro k hk
  obtain ⟨h0, h1, h7⟩ : k ≠ 0 ∧ k ≠ 1 ∧ k ≠ 7 := by simpa [writtenBits] using hk
  rw [executeAsl_p, State.aslFlags, State.flagsNZ_bit_of_ne _ _ h1 h7, State.flagWrite_bit_of_ne _ .c _ h0]

/-- Writing Negative and Zero keeps the bits of P that LDA and AND do not write. -/
theorem State.flagsNZ_statusKept (s : State) (r : Byte) : StatusKept s (s.flagsNZ r) [1, 7] := by
  intro k hk
  obtain ⟨h1, h7⟩ : k ≠ 1 ∧ k ≠ 7 := by simpa using hk
  exact State.flagsNZ_bit_of_ne s r h1 h7

/-- An executor keeps every bit of P that its mnemonic does not write. -/
theorem executeMnemonic_statusKept (m : Mnemonic) (v : Byte) (u : State) :
    StatusKept u (executeMnemonic m v u) (writtenBits m) := by
  cases m with
  | adc => exact executeAdc_statusKept v u
  | and => exact State.flagsNZ_statusKept { u with a := u.a &&& v } (u.a &&& v)
  | lda => exact State.flagsNZ_statusKept { u with a := v } v
  | sta => exact fun _ _ => rfl
  | asl => exact executeAsl_statusKept u

/-- So does a completed instruction, whose P is its executor's. -/
theorem statusKept_of_p_eq (hp : t.p = (executedState i s).p) : StatusKept s t (writtenBits i.mnemonic) := by
  intro k hk
  rw [hp]
  exact executeMnemonic_statusKept i.mnemonic (operandValue i s) (resolvedState i s) k hk

/-- ASL to `A` stores nothing (R180, R181). -/
theorem executeAsl_mem_of_toA {u : State} (h : u.eaAcc = true ∨ u.params.aslDest = .accumulator) :
    (executeAsl u).mem = u.mem := by
  unfold executeAsl
  cases hacc : u.eaAcc with
  | true => rfl
  | false =>
    have hdest : u.params.aslDest = .accumulator := h.resolve_left (by simp [hacc])
    simp [hdest, State.aslFlags]

/-- ASL to memory stores the shifted byte at EA (R180, R181). -/
theorem executeAsl_of_toSource {u : State} (hacc : u.eaAcc = false) (hdest : u.params.aslDest = .source) :
    executeAsl u = (u.aslFlags (u.memRead u.ea)).memWrite u.ea (u.memRead u.ea <<< 1) := by
  simp [executeAsl, hacc, hdest]

/-- An instruction that stores nothing leaves memory as it was. -/
theorem executedState_mem_of_storesNothing (h : storesNothing i s) : (executedState i s).mem = s.mem := by
  obtain ⟨hsta, hasl⟩ := h
  unfold executedState
  cases hm : i.mnemonic with
  | adc => rfl
  | and => rfl
  | lda => rfl
  | sta => exact absurd hm hsta
  | asl =>
    refine executeAsl_mem_of_toA (u := resolvedState i s) ?_
    by_cases hacc : i.mode = .accumulator
    · exact .inl (beq_iff_eq.mpr hacc)
    · right
      show s.params.aslDest = .accumulator
      cases hdest : s.params.aslDest with
      | accumulator => rfl
      | source => exact absurd ⟨hm, hacc, hdest⟩ hasl

/-- The instructions that store are STA, and ASL of memory under `source`. -/
theorem not_storesNothing (h : ¬ storesNothing i s) :
    i.mnemonic = .sta ∨ (i.mnemonic = .asl ∧ i.mode ≠ .accumulator ∧ s.params.aslDest = .source) := by
  by_cases hsta : i.mnemonic = .sta
  · exact .inl hsta
  · exact .inr (not_not.mp fun hasl => h ⟨hsta, hasl⟩)

theorem executedState_of_sta (h : i.mnemonic = .sta) :
    executedState i s = (resolvedState i s).memWrite (effectiveAddress i s) s.a := by
  simp [executedState, h, executeMnemonic, executeSta, resultOf]

theorem executedState_of_aslToSource (hm : i.mnemonic = .asl) (hacc : i.mode ≠ .accumulator)
    (hdest : s.params.aslDest = .source) :
    executedState i s =
      ((resolvedState i s).aslFlags (s.memRead (effectiveAddress i s))).memWrite (effectiveAddress i s)
        (s.memRead (effectiveAddress i s) <<< 1) := by
  rw [executedState, hm]
  exact executeAsl_of_toSource (u := resolvedState i s) (beq_false_of_ne hacc) hdest

/-- An instruction that stores keeps `A` and writes one byte, at its effective address. -/
theorem executedState_of_stores (h : ¬ storesNothing i s) :
    (executedState i s).a = s.a ∧
      ∃ v, (executedState i s).mem = Memory.write s.mem (effectiveAddress i s).toNat v := by
  obtain hsta | ⟨hasl, hacc, hdest⟩ := not_storesNothing h
  · rw [executedState_of_sta hsta]
    exact ⟨rfl, s.a, rfl⟩
  · rw [executedState_of_aslToSource hasl hacc hdest]
    exact ⟨rfl, _, rfl⟩

/-- Memory that differs by one write reads the same elsewhere (20_memory.md R51). -/
theorem State.memRead_of_mem_eq_write {s t : State} {a b : Word} {v : Byte}
    (h : t.mem = Memory.write s.mem a.toNat v) : t.memRead b = if b = a then v else s.memRead b :=
  (State.memRead_congr (t := s.memWrite a v) h b).trans (State.memRead_memWrite s a b v)

end Sys2Proof.Machine

namespace Sys2Proof.Proofs

open Sys2Proof.Machine

/-- Settles O32: a discarded pulse keeps all but the fault, and the executor of a completed one stores nothing and
keeps the bits of P its mnemonic does not write. -/
theorem frameOfInstructionsThatStoreNothing : Obligations.FrameOfInstructionsThatStoreNothing := by
  intro i s t hnothing hexec
  obtain hdiscarded | ⟨hcompleted, -, hp, hmem⟩ := exec_next_cases hexec
  · rw [hdiscarded]
    exact ⟨⟨rfl, rfl, rfl, rfl⟩, fun _ => rfl, fun _ _ _ => rfl, fun _ => rfl, fun _ => rfl, .inr rfl⟩
  · have hkept := statusKept_of_p_eq hp
    have hmem' : t.mem = s.mem := hmem.trans (executedState_mem_of_storesNothing hnothing)
    refine ⟨hcompleted.unwrittenKept, State.memRead_congr hmem', fun k h2 h5 => hkept k (not_mem_writtenBits h2 h5),
      fun hadc => hkept 6 (six_not_mem_writtenBits hadc), fun hlogic => hkept 0 ?_, .inl hcompleted.fault⟩
    rcases hlogic with hm | hm <;> simp [hm, writtenBits]

/-- Settles O33: a discarded pulse keeps all but the fault, and the executor of a completed one writes the byte at its
effective address, keeps `A`, and keeps the bits of P its mnemonic does not write. -/
theorem frameOfInstructionsThatStore : Obligations.FrameOfInstructionsThatStore := by
  intro i s t hstores hexec
  obtain hdiscarded | ⟨hcompleted, ha, hp, hmem⟩ := exec_next_cases hexec
  · rw [hdiscarded]
    exact ⟨⟨rfl, rfl, rfl, rfl⟩, rfl, fun _ _ => rfl, fun _ _ _ => rfl, fun _ => rfl, .inr rfl⟩
  · have hkept := statusKept_of_p_eq hp
    obtain ⟨hakept, v, hwrite⟩ := executedState_of_stores hstores
    refine ⟨hcompleted.unwrittenKept, ha.trans hakept, fun b hb => ?_, fun k h2 h6 => hkept k ?_, fun hsta => ?_,
      .inl hcompleted.fault⟩
    · rw [State.memRead_of_mem_eq_write (hmem.trans hwrite), if_neg hb]
    · obtain hm | ⟨hm, -⟩ := not_storesNothing hstores
      · simp [hm, writtenBits]
      · simp [hm, writtenBits]
        omega
    · exact byte_ext fun k => hkept k (by simp [hsta, writtenBits])

end Sys2Proof.Proofs
end

section
/-! The opcode of a decoded instruction (30_encoding.md R71, R77), and what the fetch after a store sees
(20_memory.md R66). -/

namespace Sys2Proof

/-- An assembled instruction has the mnemonic it was assembled for (R73). -/
theorem mnemonic_of_assemble {m : Mnemonic} {md : Mode} {l h : Byte} {i : Instr}
    (hi : assemble m md l h = .ok i) : i.mnemonic = m := by
  unfold assemble at hi
  split at hi <;> cases hi <;> rfl

theorem Instr.descriptor_mem_opcodeTable (i : Instr) : i.descriptor ∈ opcodeTable :=
  (describe_eq_some_iff.mp (by cases i <;> rfl : describe i.descriptor.opcode = some i.descriptor)).1

theorem Instr.descriptor_instr (i : Instr) : i.descriptor.instr = i.mnemonic := by
  cases i <;> rfl

theorem Instr.descriptor_mode (i : Instr) : i.descriptor.mode = i.mode := by
  cases i <;> rfl

/-- No two rows of the table have the same mnemonic and mode (R72). -/
theorem opcodeTable_tags_nodup : (opcodeTable.map fun d => (d.instr, d.mode)).Nodup := by
  decide

/-- An instruction assembled from a row of the table belongs to that row. -/
theorem descriptor_of_assemble {d : Descriptor} {l h : Byte} {i : Instr} (hd : d ∈ opcodeTable)
    (hi : assemble d.instr d.mode l h = .ok i) : i.descriptor = d := by
  refine List.inj_on_of_nodup_map opcodeTable_tags_nodup i.descriptor_mem_opcodeTable hd ?_
  rw [i.descriptor_instr, i.descriptor_mode, mnemonic_of_assemble hi, (mode_operand_of_assemble hi).1]

end Sys2Proof

namespace Sys2Proof.Machine

variable {s : State}

/-- A fetched instruction has the opcode byte at PC (R191). -/
theorem opcode_of_fetch {i : Instr} (h : s.fetch = .ok i) : i.descriptor.opcode = s.memRead s.pc := by
  obtain ⟨d, operands, rest, hd, -, hdec⟩ := fetch_ok h
  obtain ⟨l, r, hi, -⟩ := assemble_of_decode hd hdec
  obtain ⟨hrow, hop⟩ := describe_eq_some_iff.mp hd
  rw [descriptor_of_assemble hrow hi, hop]

/-- An unpopulated opcode byte at PC fails the fetch, before any operand (R221, R227). -/
theorem fetch_of_unpopulated (h : describe (s.memRead s.pc) = none) : s.fetch = .error .unimplementedOpcode := by
  simp [State.fetch, h]

end Sys2Proof.Machine

namespace Sys2Proof.Proofs

open Sys2Proof.Machine

/-- Settles O37: STA completes with `A` at its effective address, which is the new PC, and a fetch reads its opcode
byte there. -/
theorem storeIsSeenByTheNextFetch : Obligations.StoreIsSeenByTheNextFetch := by
  intro i s hsta hrange hnext
  obtain ⟨t, hexec, hcompleted, -, -, hmem⟩ := hrange.exec_completed
  rw [executedState_of_sta hsta] at hmem
  have hbyte : t.memRead t.pc = s.a := by
    rw [State.memRead_of_mem_eq_write (s := s) hmem, if_pos (hcompleted.pc.trans hnext.symm)]
  refine ⟨t, hexec, hbyte, fun cyc j hfetch => ?_, fun cyc hnone => ?_⟩
  · exact (opcode_of_fetch hfetch).trans hbyte
  · exact fetch_of_unpopulated ((congrArg describe hbyte).trans hnone)

end Sys2Proof.Proofs
end

section
/-! Decoding as the inverse of encoding (30_encoding.md R70 to R73, R77). -/

namespace Sys2Proof

variable {op l h : Byte} {bytes rest : List Byte} {d : Descriptor} {i : Instr}

/-- An operand that fits a format is the one the format makes of some two bytes (R70, R73). -/
theorem Operand.eq_format_operand {o : Operand} {f : Format} (hfits : o.fits f = true) :
    ∃ l h, o = f.operand l h := by
  match o, f, hfits with
  | .none, .f1, _ => exact ⟨0, 0, rfl⟩
  | .byte n, .f2, _ => exact ⟨n, 0, rfl⟩
  | .word w, .f3, _ => exact ⟨loByte w, hiByte w, by simp [Format.operand]⟩

/-- An instruction's operand fits the format of its mode (R73). -/
theorem Instr.operand_fits (i : Instr) : i.operand.fits i.mode.format = true := by
  cases i <;> rfl

/-- An instruction is assembled from its tags and any bytes that make its operand (R73). -/
theorem assemble_of_operand (ho : i.operand = i.mode.format.operand l h) :
    assemble i.mnemonic i.mode l h = .ok i := by
  cases i <;> cases ho <;> rfl

/-- At a populated opcode, what decodes is what its row assembles from the operand bytes that follow (R70, R73). -/
theorem decode_cons_eq_ok_iff (hd : describe op = some d) :
    decode (op :: bytes) = .ok (i, rest) ↔
      ∃ l h, assemble d.instr d.mode l h = .ok i ∧ bytes = (d.mode.format.operand l h).bytes ++ rest := by
  have hmap {l h : Byte} {tail : List Byte} :
      (assemble d.instr d.mode l h).map (fun i => (i, tail)) = .ok (i, rest) ↔
        assemble d.instr d.mode l h = .ok i ∧ tail = rest := by
    cases assemble d.instr d.mode l h <;> simp [Except.map]
  have hsame {l h l' h' : Byte} (ho : d.mode.format.operand l h = d.mode.format.operand l' h')
      (hi : assemble d.instr d.mode l h = .ok i) : assemble d.instr d.mode l' h' = .ok i := by
    obtain ⟨hmode, hoperand⟩ := mode_operand_of_assemble hi
    rw [← hmode] at ho hoperand
    rw [← mnemonic_of_assemble hi, ← hmode]
    exact assemble_of_operand (hoperand.trans ho)
  cases hf : d.mode.format with
  | f1 =>
    simp only [decode, hd, hf, hmap]
    refine ⟨fun ⟨hi, hb⟩ => ⟨0, 0, hi, hb⟩, fun ⟨l, h, hi, hb⟩ => ⟨hsame (by simp [hf, Format.operand]) hi, hb⟩⟩
  | f2 =>
    cases bytes with
    | nil => simp [decode, hd, hf, Format.operand, Operand.bytes]
    | cons b tail =>
      simp only [decode, hd, hf, hmap]
      refine ⟨fun ⟨hi, hb⟩ => ⟨b, 0, hi, by rw [hb]; rfl⟩, fun ⟨l, h, hi, hb⟩ => ?_⟩
      cases hb
      exact ⟨hsame (by simp [hf, Format.operand]) hi, rfl⟩
  | f3 =>
    match bytes with
    | [] => simp [decode, hd, hf, Format.operand, Operand.bytes]
    | [_] => simp [decode, hd, hf, Format.operand, Operand.bytes]
    | b :: c :: tail =>
      simp only [decode, hd, hf, hmap]
      refine ⟨fun ⟨hi, hb⟩ => ⟨b, c, hi, by simp [Format.operand, Operand.bytes, hb]⟩, fun ⟨l, h, hi, hb⟩ => ?_⟩
      simp only [Format.operand, Operand.bytes, Machine.loByte_joinBytes, Machine.hiByte_joinBytes] at hb
      cases hb
      exact ⟨hi, rfl⟩

/-- The bytes of an instruction decode to it, and what follows them is the rest (R70). -/
theorem decode_encode (i : Instr) (rest : List Byte) : decode (encode i ++ rest) = .ok (i, rest) := by
  obtain ⟨l, h, ho⟩ := Operand.eq_format_operand i.operand_fits
  refine (decode_cons_eq_ok_iff (describe_opcode i.descriptor_mem_opcodeTable)).mpr ⟨l, h, ?_, ?_⟩
  · rw [i.descriptor_instr, i.descriptor_mode]
    exact assemble_of_operand ho
  · rw [i.descriptor_mode, ← ho]
    rfl

/-- Whatever decodes starts with an opcode of the table (R75). -/
theorem describe_of_decode_eq_ok (hdec : decode bytes = .ok (i, rest)) :
    ∃ op tail d, bytes = op :: tail ∧ describe op = some d := by
  cases bytes with
  | nil => simp [decode] at hdec
  | cons op tail =>
    cases hd : describe op with
    | none => simp [decode, hd] at hdec
    | some d => exact ⟨op, tail, d, rfl, hd⟩

/-- Whatever decodes is the encoding of the instruction it gives, and the rest (R77). -/
theorem eq_encode_of_decode (hdec : decode bytes = .ok (i, rest)) : bytes = encode i ++ rest := by
  obtain ⟨op, tail, d, rfl, hd⟩ := describe_of_decode_eq_ok hdec
  obtain ⟨l, h, hi, htail⟩ := (decode_cons_eq_ok_iff hd).mp hdec
  obtain ⟨hrow, hop⟩ := describe_eq_some_iff.mp hd
  rw [htail, encode, descriptor_of_assemble hrow hi, hop, (mode_operand_of_assemble hi).2]
  rfl

end Sys2Proof

namespace Sys2Proof.Proofs

/-- Settles O1: the opcode finds the instruction's row, which assembles it again from its operand bytes. -/
theorem decodeOfEncodeReturnsTheInstruction : Obligations.DecodeOfEncodeReturnsTheInstruction := by
  refine fun i rest => ⟨?_, decode_encode i rest⟩
  cases i <;> rfl

/-- Settles O2: the row at the opcode is the instruction's, and its format says which bytes are the operand. -/
theorem encodeOfDecodeReturnsTheBytes : Obligations.EncodeOfDecodeReturnsTheBytes :=
  fun _ _ _ => eq_encode_of_decode

end Sys2Proof.Proofs
end

section
/-! The invariants every step keeps: the canonical form of memory (20_memory.md R50) and the range of the clock
(10_state.md R29). -/

namespace Sys2Proof.Machine

variable {s t : State} {i : Instr}

/-- A completed instruction leaves memory as it was or with one byte written (42_load_store.md R161, 44_shift.md
R180). -/
theorem executedState_mem_cases (i : Instr) (s : State) :
    (executedState i s).mem = s.mem ∨
      ∃ (a : Word) (v : Byte), (executedState i s).mem = Memory.write s.mem a.toNat v := by
  by_cases h : Claims.storesNothing i s
  · exact .inl (executedState_mem_of_storesNothing h)
  · obtain ⟨-, v, hv⟩ := executedState_of_stores h
    exact .inr ⟨effectiveAddress i s, v, hv⟩

/-- What a step can leave: the state before it but for the clock, the state before it but for the fault, or a completed
instruction with the `A`, `P` and memory of its executor. -/
theorem step_next_cases (h : step s = .next t) :
    (0 < s.cyc ∧ t = s.tick) ∨ (s.cyc ≤ 0 ∧ t = { s with fault := t.fault }) ∨
      (s.cyc ≤ 0 ∧ ∃ i, s.fetch = .ok i ∧ Completed i s t ∧ t.a = (executedState i s).a ∧ t.p = (executedState i s).p ∧
        t.mem = (executedState i s).mem) := by
  obtain ⟨-, htick | ⟨hcyc, i, hfetch, hexec⟩ | ⟨hcyc, kind, -, rfl⟩⟩ := step_cases h
  · exact .inl htick
  · obtain hdiscarded | hcompleted := exec_next_cases hexec
    · exact .inr (.inl ⟨hcyc, hdiscarded⟩)
    · exact .inr (.inr ⟨hcyc, i, hfetch, hcompleted⟩)
  · exact .inr (.inl ⟨hcyc, rfl⟩)

/-- A row of the table takes 2 to 7 cycles, the page-cross penalty counted (70_reset_and_hazards.md R246). -/
theorem baseCycles_bounds {d : Descriptor} (hd : d ∈ opcodeTable) :
    2 ≤ d.baseCycles ∧ d.baseCycles ≤ 7 ∧ (d.pageCrossPenaltyEligible = true → d.baseCycles ≤ 6) := by
  revert d
  decide

/-- An instruction costs 2 to 7 pulses (49_clock_dispatch.md R192). -/
theorem cost_bounds (i : Instr) (s : State) : 2 ≤ cost i s ∧ cost i s ≤ 7 := by
  obtain ⟨hlow, hhigh, hpenalty⟩ := baseCycles_bounds i.descriptor_mem_opcodeTable
  unfold cost
  split
  · next hcross =>
    have := hpenalty (Bool.and_eq_true_iff.mp hcross).1
    omega
  · omega

end Sys2Proof.Machine

namespace Sys2Proof.Proofs

open Sys2Proof.Machine

/-- Settles O49: a step or host write that changes memory at all writes one byte at a 16-bit address. -/
theorem stepsKeepMemoryCanonical : Obligations.StepsKeepMemoryCanonical := by
  refine ⟨fun s t hwf hstep => ?_, fun s a v hwf => Memory.write_wf hwf a.isLt⟩
  obtain ⟨-, rfl⟩ | ⟨-, hdiscarded⟩ | ⟨-, i, -, -, -, -, hmem⟩ := step_next_cases hstep
  · exact hwf
  · rw [hdiscarded]
    exact hwf
  · rw [hmem]
    obtain hkept | ⟨a, v, hwrite⟩ := executedState_mem_cases i s
    · rwa [hkept]
    · rw [hwrite]
      exact Memory.write_wf hwf a.isLt

/-- Settles O50: an Executing pulse counts down from 1 or more, and a completed instruction leaves its cost less 1. -/
theorem stepsKeepTheClockInRange : Obligations.StepsKeepTheClockInRange := by
  intro s t hrange hstep
  obtain ⟨hcyc, rfl⟩ | ⟨-, hdiscarded⟩ | ⟨-, i, -, hcompleted, -⟩ := step_next_cases hstep
  · obtain ⟨-, hhigh⟩ := hrange
    simp only [State.ClockInRange, State.tick_cyc]
    omega
  · rw [hdiscarded]
    exact hrange
  · have := cost_bounds i s
    simp only [State.ClockInRange, hcompleted.cyc]
    omega

end Sys2Proof.Proofs
end

section
/-! The page cross (40_addressing_modes.md R134), and the instructions without its penalty (49_clock_dispatch.md
R192). -/

namespace Sys2Proof.Machine

variable {i : Instr}

theorem pageCross_eq_true_iff (b : Word) (k : Byte) : pageCross b k = true ↔ 255 < b.toNat % 256 + k.toNat := by
  simp [pageCross, toNat_loByte]

/-- STA and ASL rows are not eligible for the page-cross penalty (30_encoding.md R72). -/
theorem not_eligible_of_sta_or_asl {d : Descriptor} (hd : d ∈ opcodeTable) (hm : d.instr = .sta ∨ d.instr = .asl) :
    d.pageCrossPenaltyEligible = false := by
  revert d
  decide

theorem cost_of_sta_or_asl (s : State) (hm : i.mnemonic = .sta ∨ i.mnemonic = .asl) :
    cost i s = i.descriptor.baseCycles := by
  rw [← i.descriptor_instr] at hm
  simp [cost, not_eligible_of_sta_or_asl i.descriptor_mem_opcodeTable hm]

end Sys2Proof.Machine

namespace Sys2Proof.Proofs

open Sys2Proof.Machine

/-- Settles O12: the high byte of the sum is the base's, and one more exactly when the low bytes carry. -/
theorem pageCrossMeansTheHighByteChanges : Obligations.PageCrossMeansTheHighByteChanges := by
  intro b k
  have hb := b.isLt
  have hk := k.isLt
  rw [pageCross_eq_true_iff, Ne, ← BitVec.toNat_inj, toNat_hiByte, toNat_hiByte, BitVec.toNat_add, toNat_zeroExtend16]
  omega

/-- Settles O27: in range STA completes with its executor's state, one store of `A` at the effective address. -/
theorem staStoresAndTouchesNoFlag : Obligations.StaStoresAndTouchesNoFlag := by
  refine ⟨encodings_of_rows (by decide), fun i s hm hrange => ?_⟩
  have hacc : i.mode ≠ .accumulator := Instr.mode_ne (by rw [hm]; decide)
  obtain ⟨t, hexec, hcompleted, ha, hp, hmem⟩ := hrange.exec_completed
  rw [executedState_of_sta hm] at ha hp hmem
  refine ⟨t, hexec, hcompleted, hcompleted.eaAcc.trans (beq_false_of_ne hacc), ha, hp, ?_, fun b => ?_⟩
  · rw [hcompleted.cyc, cost_of_sta_or_asl s (.inl hm)]
  · exact State.memRead_of_mem_eq_write hmem

end Sys2Proof.Proofs
end

section
/-! ADC (41_arithmetic.md): the flags of its executor, and its Overflow condition as signed overflow (R154). -/

namespace Sys2Proof.Machine

open Sys2Proof.Claims

variable {s : State}

/-- The sum ADC writes to `A`, before it is cut to a byte (R150). -/
def adcSum (s : State) (m : Byte) : Nat := s.a.toNat + m.toNat + s.adcCarry

theorem executeAdc_a (m : Byte) (s : State) : (executeAdc m s).a = BitVec.ofNat 8 (adcSum s m) := rfl

/-- ADC's P, bit by bit: each of its four flags is written once, for a condition on the old `A` (R150). -/
theorem executeAdc_bit (m : Byte) (s : State) (k : Nat) :
    (executeAdc m s).p.getLsbD k =
      if k = 0 then flagAfter s 0 (decide (adcSum s m > 255))
      else if k = 1 then flagAfter s 1 ((executeAdc m s).a == 0)
      else if k = 6 then flagAfter s 6 (adcOverflow s.a m (executeAdc m s).a)
      else if k = 7 then flagAfter s 7 (adcNegative s.params.adcNegative s.a m (executeAdc m s).a)
      else s.p.getLsbD k := by
  unfold executeAdc
  simp only [State.flagWrite_bit, State.flagWrite_params, flagAfter_eq_flagValue, flagBit]
  by_cases h0 : k = 0
  · subst h0
    rfl
  by_cases h1 : k = 1
  · subst h1
    rfl
  by_cases h6 : k = 6
  · subst h6
    rfl
  by_cases h7 : k = 7
  · subst h7
    rfl
  simp [h0, h1, h6, h7]

theorem adcCarry_eq (s : State) :
    s.adcCarry = if s.params.adcCarryIn = .included then (s.p.getLsbD 0).toNat else 0 := by
  unfold State.adcCarry
  cases s.params.adcCarryIn <;> rfl

theorem adcOverflow_eq_getLsbD (a m r : Byte) :
    adcOverflow a m r = (a.getLsbD 7 == m.getLsbD 7 && r.getLsbD 7 != a.getLsbD 7) := by
  unfold adcOverflow
  simp only [BitVec.msb_eq_getLsbD_last]

theorem adcNegative_eq_getLsbD (policy : Config.AdcNegative) (a m r : Byte) :
    adcNegative policy a m r =
      if policy = .signsDiffer then a.getLsbD 7 != m.getLsbD 7 && r.getLsbD 7 else r.getLsbD 7 := by
  unfold adcNegative
  simp only [BitVec.msb_eq_getLsbD_last]
  cases policy <;> rfl

/-- A byte is zero when the number it is cut from is a multiple of 256. -/
theorem ofNat_beq_zero (n : Nat) : (BitVec.ofNat 8 n == 0) = decide (n % 256 = 0) := by
  rw [Bool.beq_eq_decide_eq]
  simp [← BitVec.toNat_inj]

/-- The signed value of a byte by its sign bit. -/
theorem byte_toInt (b : Byte) : b.toInt = if b.msb then (b.toNat : Int) - 256 else b.toNat := by
  rw [BitVec.toInt_eq_msb_cond]
  rfl

end Sys2Proof.Machine

namespace Sys2Proof.Proofs

open Sys2Proof.Machine

/-- Settles O25: in range ADC completes with its executor's state, whose flags are tested on the old `A`, the operand
and the sum. -/
theorem adcAddsAndWritesFourFlags : Obligations.AdcAddsAndWritesFourFlags := by
  refine ⟨encodings_of_rows (by decide), fun i s hm hrange => ?_⟩
  intro m cin sum
  have hsum : adcSum (resolvedState i s) m = sum := congrArg (s.a.toNat + m.toNat + ·) (adcCarry_eq s)
  obtain ⟨t, hexec, hcompleted, ha, hp, hmem⟩ := hrange.exec_completed
  simp only [executedState, hm, executeMnemonic] at ha hp hmem
  have hbit (k : Nat) := congrArg (BitVec.getLsbD · k) hp
  simp only [executeAdc_bit, ← ha, adcOverflow_eq_getLsbD, adcNegative_eq_getLsbD] at hbit
  rw [executeAdc_a, hsum] at ha
  refine ⟨t, hexec, hcompleted, hmem, ?_, ?_, ?_, hbit 6, hbit 7, ?_⟩
  · rw [ha, BitVec.toNat_ofNat]
  · rw [← hsum]
    exact hbit 0
  · rw [← ofNat_beq_zero, ← ha]
    exact hbit 1
  · intro k hk
    rw [hp]
    exact executeAdc_statusKept m (resolvedState i s) k hk

/-- Settles O31: split by the operands' signs; operands of different signs never leave the range, and of one sign the
byte sum has the other sign exactly when they do. -/
theorem adcOverflowIsSignedOverflow : Obligations.AdcOverflowIsSignedOverflow := by
  intro a m c
  have ha := a.isLt
  have hm := m.isLt
  have hc := c.toNat_le
  simp only [adcOverflow, byte_toInt, BitVec.msb_eq_decide, BitVec.toNat_ofNat]
  by_cases hasign : 128 ≤ a.toNat <;> by_cases hmsign : 128 ≤ m.toNat <;> simp [hasign, hmsign] <;> omega

end Sys2Proof.Proofs
end

section
/-! ASL (44_shift.md): the flags of a shift left, and where its result goes. -/

namespace Sys2Proof.Machine

open Sys2Proof.Claims

variable {i : Instr} {s u : State}

theorem toNat_shiftLeft_one (v : Byte) : (v <<< 1).toNat = 2 * v.toNat % 256 := by
  rw [BitVec.toNat_shiftLeft, Nat.shiftLeft_eq]
  omega

/-- The flags of a shift left of `v`, bit by bit: Negative is the old bit 6 (R180). -/
theorem State.aslFlags_bit (s : State) (v : Byte) (k : Nat) :
    (s.aslFlags v).p.getLsbD k =
      if k = 0 then flagAfter s 0 (v.getLsbD 7)
      else if k = 1 then flagAfter s 1 (decide (v <<< 1 = 0))
      else if k = 7 then flagAfter s 7 (v.getLsbD 6)
      else s.p.getLsbD k := by
  have hneg : (v <<< 1).getLsbD 7 = v.getLsbD 6 := by simp
  rw [State.aslFlags, State.flagsNZ_bit, hneg, BitVec.msb_eq_getLsbD_last]
  simp only [flagAfter_eq_flagValue, State.flagWrite_bit, State.flagWrite_params, flagBit]
  by_cases h0 : k = 0
  · subst h0
    rfl
  · simp [h0]

/-- ASL of the accumulator shifts `A` in place (R180). -/
theorem executeAsl_of_acc (hacc : u.eaAcc = true) :
    executeAsl u = { u.aslFlags u.a with a := u.a <<< 1 } := by
  simp [executeAsl, hacc]

/-- ASL of memory under `P_ASL_DEST = accumulator` writes the shifted byte at EA to `A` (R181). -/
theorem executeAsl_of_toA (hacc : u.eaAcc = false) (hdest : u.params.aslDest = .accumulator) :
    executeAsl u = { u.aslFlags (u.memRead u.ea) with a := u.memRead u.ea <<< 1 } := by
  simp [executeAsl, hacc, hdest]

theorem executedState_of_aslAcc (s : State) :
    executedState .aslAcc s = { (resolvedState .aslAcc s).aslFlags s.a with a := s.a <<< 1 } :=
  executeAsl_of_acc (u := resolvedState .aslAcc s) rfl

theorem executedState_of_aslToA (hm : i.mnemonic = .asl) (hacc : i.mode ≠ .accumulator)
    (hdest : s.params.aslDest = .accumulator) :
    executedState i s =
      { (resolvedState i s).aslFlags (s.memRead (effectiveAddress i s)) with
        a := s.memRead (effectiveAddress i s) <<< 1 } := by
  rw [executedState, hm]
  exact executeAsl_of_toA (u := resolvedState i s) (beq_false_of_ne hacc) hdest

/-- ASL of memory writes the flags of the byte at its effective address, wherever the result goes (R180). -/
theorem executedState_p_of_aslMemory (hm : i.mnemonic = .asl) (hacc : i.mode ≠ .accumulator) :
    (executedState i s).p = ((resolvedState i s).aslFlags (s.memRead (effectiveAddress i s))).p := by
  cases hdest : s.params.aslDest with
  | accumulator => rw [executedState_of_aslToA hm hacc hdest]
  | source => rw [executedState_of_aslToSource hm hacc hdest, State.memWrite_p]

/-- The four clauses on P that both forms of ASL meet, once P is that of a shift's flags. -/
theorem aslFlags_claims {t : State} {v : Byte} (hp : t.p = ((resolvedState i s).aslFlags v).p) :
    t.p.getLsbD 0 = flagAfter s 0 (v.getLsbD 7) ∧ t.p.getLsbD 1 = flagAfter s 1 (decide (v <<< 1 = 0)) ∧
      t.p.getLsbD 7 = flagAfter s 7 (v.getLsbD 6) ∧ StatusKept s t [0, 1, 7] := by
  have hbit (k : Nat) := congrArg (BitVec.getLsbD · k) hp
  simp only [State.aslFlags_bit] at hbit
  refine ⟨hbit 0, hbit 1, hbit 7, fun k hk => ?_⟩
  obtain ⟨h0, h1, h7⟩ : k ≠ 0 ∧ k ≠ 1 ∧ k ≠ 7 := by simpa using hk
  simpa [h0, h1, h7] using hbit k

theorem aslEncodings_of_table : Encodings .asl aslEncodings := encodings_of_rows (by decide)

end Sys2Proof.Machine

namespace Sys2Proof.Proofs

open Sys2Proof.Machine

/-- Settles O29: in range ASL A completes with its executor's state, which shifts `A` whatever `P_ASL_DEST` is. -/
theorem aslAccumulatorShiftsA : Obligations.AslAccumulatorShiftsA := by
  refine ⟨aslEncodings_of_table, fun s hrange => ?_⟩
  obtain ⟨t, hexec, hcompleted, ha, hp, hmem⟩ := hrange.exec_completed
  rw [executedState_of_aslAcc] at ha hp hmem
  obtain ⟨hc, hz, hn, hkept⟩ := aslFlags_claims hp
  refine ⟨t, hexec, hcompleted, hcompleted.eaAcc, hmem, ?_, hc, ?_, hn, hkept⟩
  · rw [ha]
    exact toNat_shiftLeft_one s.a
  · rw [ha]
    exact hz

/-- Settles O30: in range ASL of memory completes with its executor's state, which shifts the byte at the effective
address to `A` or back to that address. -/
theorem aslMemoryShiftsTheByteAtEA : Obligations.AslMemoryShiftsTheByteAtEA := by
  refine ⟨aslEncodings_of_table, fun i s hm hacc hrange => ?_⟩
  intro v
  obtain ⟨t, hexec, hcompleted, ha, hp, hmem⟩ := hrange.exec_completed
  rw [executedState_p_of_aslMemory hm hacc] at hp
  obtain ⟨hc, hz, hn, hkept⟩ := aslFlags_claims hp
  refine ⟨t, v <<< 1, hexec, hcompleted, hcompleted.eaAcc.trans (beq_false_of_ne hacc), ?_, toNat_shiftLeft_one v,
    fun hdest => ?_, fun hdest => ?_, hc, hz, hn, hkept⟩
  · rw [hcompleted.cyc, cost_of_sta_or_asl s (.inr hm)]
  · rw [executedState_of_aslToA hm hacc hdest] at ha hmem
    exact ⟨ha, hmem⟩
  · rw [executedState_of_aslToSource hm hacc hdest] at ha hmem
    exact ⟨ha, fun b => State.memRead_of_mem_eq_write hmem⟩

end Sys2Proof.Proofs
end

section
/-! Rules of every step: flags under `set_only` (10_state.md R31), and what no step writes (R22, R23, R26 to R28). -/

namespace Sys2Proof.Machine

variable {s t : State}

/-- Under `set_only` writing a flag clears no bit of P (R31). -/
theorem State.flagWrite_keeps_set {f : Flag} {c : Bool} {k : Nat} (hp : s.params.flags = .setOnly)
    (hk : s.p.getLsbD k = true) : (s.flagWrite f c).p.getLsbD k = true := by
  rw [State.flagWrite_bit, hk, hp]
  simp [flagValue]

theorem State.flagsNZ_keeps_set {r : Byte} {k : Nat} (hp : s.params.flags = .setOnly)
    (hk : s.p.getLsbD k = true) : (s.flagsNZ r).p.getLsbD k = true := by
  have hn : (s.flagWrite .n r.msb).p.getLsbD k = true := State.flagWrite_keeps_set hp hk
  exact State.flagWrite_keeps_set (s := s.flagWrite .n r.msb) hp hn

/-- Under `set_only` no executor clears a bit of P: all it does to P is writing flags. -/
theorem executeMnemonic_keeps_set (m : Mnemonic) (v : Byte) {k : Nat} (hp : s.params.flags = .setOnly)
    (hk : s.p.getLsbD k = true) : (executeMnemonic m v s).p.getLsbD k = true := by
  cases m with
  | adc =>
    refine State.flagWrite_keeps_set (s := State.flagWrite _ .v _) hp ?_
    refine State.flagWrite_keeps_set (s := State.flagWrite _ .z _) hp ?_
    exact State.flagWrite_keeps_set (s := State.flagWrite _ .c _) hp (State.flagWrite_keeps_set hp hk)
  | and => exact State.flagsNZ_keeps_set (s := { s with a := s.a &&& v }) hp hk
  | lda => exact State.flagsNZ_keeps_set (s := { s with a := v }) hp hk
  | sta => exact hk
  | asl =>
    rw [executeMnemonic, executeAsl_p, State.aslFlags]
    exact State.flagsNZ_keeps_set (s := s.flagWrite .c _) hp (State.flagWrite_keeps_set hp hk)

end Sys2Proof.Machine

namespace Sys2Proof.Proofs

open Sys2Proof.Machine

/-- Settles O24: a step that is no completed instruction keeps P, and the executor of one only writes flags. -/
theorem setOnlyStepsNeverClearAFlag : Obligations.SetOnlyStepsNeverClearAFlag := by
  intro s t k hpolicy hstep hk
  obtain ⟨-, rfl⟩ | ⟨-, hdiscarded⟩ | ⟨-, i, -, -, -, hp, -⟩ := step_next_cases hstep
  · exact hk
  · rw [hdiscarded]
    exact hk
  · rw [hp]
    exact executeMnemonic_keeps_set (s := resolvedState i s) i.mnemonic _ hpolicy hk

/-- Settles O34: a step that is no completed instruction keeps the registers and P, and no executor writes bits 2 to 5
of P. -/
theorem stepsNeverWriteIndexStackOrMaskBits : Obligations.StepsNeverWriteIndexStackOrMaskBits := by
  intro s t hstep
  obtain ⟨-, rfl⟩ | ⟨-, hdiscarded⟩ | ⟨-, i, -, hcompleted, -, hp, -⟩ := step_next_cases hstep
  · exact ⟨⟨rfl, rfl, rfl, rfl⟩, fun _ _ _ => rfl⟩
  · rw [hdiscarded]
    exact ⟨⟨rfl, rfl, rfl, rfl⟩, fun _ _ _ => rfl⟩
  · exact ⟨hcompleted.unwrittenKept, fun k h2 h5 => statusKept_of_p_eq hp k (not_mem_writtenBits h2 h5)⟩

/-- Settles O44: an Executing pulse and a completed instruction keep the fault record, which was empty. -/
theorem faultDiscardsThePulse : Obligations.FaultDiscardsThePulse := by
  intro s t hstep hfault
  have hnone : s.fault = none := (step_cases hstep).1
  obtain ⟨-, rfl⟩ | ⟨-, hdiscarded⟩ | ⟨-, i, -, hcompleted, -⟩ := step_next_cases hstep
  · exact absurd hnone hfault
  · exact hdiscarded
  · exact absurd (hcompleted.fault.trans hnone) hfault

end Sys2Proof.Proofs
end

section
/-! What no instruction reads: SP and bits 2 to 5 of P (10_state.md R23, R26 to R28), and the `CYC`, `EA` and `EA_ACC`
of the last instruction (R29, R30). -/

namespace Sys2Proof.Machine

open Sys2Proof.Claims

variable {s : State} {i : Instr}

/-- Bits 2 to 5 of P are the other byte's, every other bit is as it was. -/
theorem withUnread_bit (s : State) (sp q : Byte) (k : Nat) :
    (withUnread s sp q).p.getLsbD k = if 2 ≤ k ∧ k ≤ 5 then q.getLsbD k else s.p.getLsbD k := by
  show ((s.p &&& 0xC3#8) ||| (q &&& 0x3C#8)).getLsbD k = _
  by_cases hk : k < 8
  · rw [BitVec.getLsbD_or, BitVec.getLsbD_and, BitVec.getLsbD_and]
    interval_cases k <;> simp
  · simp [BitVec.getLsbD_of_ge _ k (not_lt.mp hk)]

theorem eq_of_p_bits {u v : State} (hp : ∀ k, u.p.getLsbD k = v.p.getLsbD k) (hrest : { u with p := v.p } = v) :
    u = v := by
  rw [← hrest, ← byte_ext hp]

/-- Writing a flag outside bits 2 to 5 commutes with changing those bits. -/
theorem flagWrite_withUnread (sp q : Byte) {f : Flag} (hf : ¬ (2 ≤ flagBit f ∧ flagBit f ≤ 5)) (c : Bool) :
    (withUnread s sp q).flagWrite f c = withUnread (s.flagWrite f c) sp q := by
  refine eq_of_p_bits (fun k => ?_) rfl
  rw [State.flagWrite_bit, withUnread_bit, withUnread_bit, State.flagWrite_bit]
  by_cases hk : k = flagBit f
  · subst hk
    simp [hf]
    rfl
  · simp [hk]

theorem adcCarry_withUnread (sp q : Byte) : (withUnread s sp q).adcCarry = s.adcCarry := by
  rw [adcCarry_eq, adcCarry_eq, withUnread_bit]
  rfl

theorem flagsNZ_withUnread (sp q r : Byte) : (withUnread s sp q).flagsNZ r = withUnread (s.flagsNZ r) sp q := by
  rw [State.flagsNZ, flagWrite_withUnread sp q (by decide), flagWrite_withUnread sp q (by decide)]
  rfl

theorem executeAdc_withUnread (m sp q : Byte) :
    executeAdc m (withUnread s sp q) = withUnread (executeAdc m s) sp q := by
  simp only [executeAdc, adcCarry_withUnread]
  rw [flagWrite_withUnread sp q (by decide), flagWrite_withUnread sp q (by decide),
    flagWrite_withUnread sp q (by decide), flagWrite_withUnread sp q (by decide)]
  rfl

theorem aslFlags_withUnread (v sp q : Byte) : (withUnread s sp q).aslFlags v = withUnread (s.aslFlags v) sp q := by
  rw [State.aslFlags, flagWrite_withUnread sp q (by decide), flagsNZ_withUnread]
  rfl

theorem executeAsl_withUnread (sp q : Byte) : executeAsl (withUnread s sp q) = withUnread (executeAsl s) sp q := by
  cases hacc : s.eaAcc with
  | true =>
    rw [executeAsl_of_acc hacc, executeAsl_of_acc (u := withUnread s sp q) hacc, aslFlags_withUnread]
    rfl
  | false =>
    cases hdest : s.params.aslDest with
    | accumulator =>
      rw [executeAsl_of_toA hacc hdest, executeAsl_of_toA (u := withUnread s sp q) hacc hdest, aslFlags_withUnread]
      rfl
    | source =>
      rw [executeAsl_of_toSource hacc hdest, executeAsl_of_toSource (u := withUnread s sp q) hacc hdest,
        aslFlags_withUnread]
      rfl

/-- No executor reads SP or bits 2 to 5 of P. -/
theorem executeMnemonic_withUnread (m : Mnemonic) (v sp q : Byte) :
    executeMnemonic m v (withUnread s sp q) = withUnread (executeMnemonic m v s) sp q := by
  cases m with
  | adc => exact executeAdc_withUnread v sp q
  | and => exact flagsNZ_withUnread (s := { s with a := s.a &&& v }) sp q (s.a &&& v)
  | lda => exact flagsNZ_withUnread (s := { s with a := v }) sp q v
  | sta => rfl
  | asl => exact executeAsl_withUnread sp q

/-- The executor of an instruction is its mnemonic's, on the operand byte or on the byte at EA (R59). -/
theorem executeOf_eq_executeMnemonic (i : Instr) (u : State) :
    executeOf i u = executeMnemonic i.mnemonic
      (if i.mode = .immediate then loByte (Operand.asWord i.operand) else u.memRead u.ea) u := by
  cases i <;> simp [executeOf, onMemory, executeMnemonic, Instr.mode, Instr.mnemonic, Instr.operand, Operand.asWord]

theorem executeOf_withUnread (i : Instr) (sp q : Byte) :
    executeOf i (withUnread s sp q) = withUnread (executeOf i s) sp q := by
  rw [executeOf_eq_executeMnemonic, executeMnemonic_withUnread, executeOf_eq_executeMnemonic]
  rfl

/-- No resolver reads SP or P. -/
theorem resolveOf_withUnread (i : Instr) (sp q : Byte) : resolveOf i (withUnread s sp q) = resolveOf i s := by
  cases i <;> rfl

/-- In range the fetch pulse is its executor from the resolved state, its PC advance and decrement (R191, R195). -/
theorem AddressesInRange.exec_eq (h : AddressesInRange i s) :
    exec i s = .next (State.tick { executedState i s with pc := s.pc + BitVec.ofNat 16 i.length }) := by
  have hpc : s.addrAdd s.pc i.descriptor.length = _ := h.addrAdd_pc_eq_ok (le_refl i.length)
  simp only [exec_eq_fetchPulse, fetchPulse, h.resolveOf_eq_ok, hpc]
  rw [executeOf_resolvedState]
  rfl

end Sys2Proof.Machine

namespace Sys2Proof.Proofs

open Sys2Proof.Machine Sys2Proof.Claims

/-- Settles O35: the resolver and the PC advance read neither SP nor P, the executor commutes with changing SP and
bits 2 to 5 of P, and a recorded fault leaves both. -/
theorem stackDecimalAndMaskBitsAreNeverRead : Obligations.StackDecimalAndMaskBitsAreNeverRead := by
  intro i s sp q
  simp only [exec_eq_fetchPulse, fetchPulse, resolveOf_withUnread]
  cases resolveOf i s with
  | error t => rfl
  | ok r =>
    have hexecute : executeOf i ((withUnread s sp q).resolved i.descriptor r) = _ :=
      executeOf_withUnread (s := s.resolved i.descriptor r) i sp q
    have hpc : (withUnread s sp q).addrAdd (withUnread s sp q).pc = s.addrAdd s.pc := rfl
    simp only [hexecute, hpc]
    cases s.addrAdd s.pc i.descriptor.length <;> rfl

/-- Settles O36: the resolver reads none of the three, and the state the executor gets has all three overwritten. -/
theorem oldClockAndScratchAreNeverRead : Obligations.OldClockAndScratchAreNeverRead := by
  intro i s ea acc cyc hrange
  have hrange' : AddressesInRange i { s with ea := ea, eaAcc := acc, cyc := cyc } := hrange
  rw [hrange.exec_eq, hrange'.exec_eq]
  rfl

end Sys2Proof.Proofs
end

section
/-! The operand bytes of an instruction by where its last one lies (30_encoding.md R73, 60_exceptions.md R222), and
the resolvers that fail with them. -/

namespace Sys2Proof.Machine

variable {s : State} {a b : Word} {t : Int} {f : Format}

/-- Under `fault` a sum past 0xFFFF is raised (20_memory.md R53). -/
theorem addrAdd_natCast_eq_error {k : Nat} (hp : s.params.addrOverflow = .fault) (h : 65535 < a.toNat + k) :
    s.addrAdd a k = .error ((a.toNat + k : Nat) : Int) :=
  addrAdd_eq_error hp (.inr (by omega))

theorem operandAddr1_eq_ok (h : s.params.addrOverflow = .wrap16 ∨ s.pc.toNat + 1 ≤ 65535) :
    s.operandAddr1 = .ok (s.pc + 1) :=
  addrAdd_natCast_eq_ok (k := 1) h

theorem operandAddr2_eq_ok (h : s.params.addrOverflow = .wrap16 ∨ s.pc.toNat + 2 ≤ 65535) :
    s.operandAddr2 = .ok (s.pc + 2) := by
  rw [operandAddr2_of_operandAddr1 (operandAddr1_eq_ok (h.imp_right (by omega)))]
  have hsum : s.pc + 1 + BitVec.ofNat 16 1 = s.pc + 2 := BitVec.add_assoc s.pc 1 1
  refine (addrAdd_natCast_eq_ok (k := 1) (h.imp_right fun _ => ?_)).trans (congrArg _ hsum)
  rw [BitVec.toNat_add, show (1 : Word).toNat = 1 from rfl]
  omega

/-- The address of the last byte of an instruction at PC, computed as its fetch and its resolver do (R73). -/
def State.lastByteAddr (s : State) : Format → Except Int Word
  | .f1 => .ok s.pc
  | .f2 => s.operandAddr1
  | .f3 => s.operandAddr2

/-- The last byte of an instruction at PC is inside the address space, or `wrap16` brings it there. -/
abbrev State.Fits (s : State) (f : Format) : Prop :=
  s.params.addrOverflow = .wrap16 ∨ s.pc.toNat + f.length ≤ 65536

theorem lastByteAddr_ok_of_fits (h : s.Fits f) : ∃ a, s.lastByteAddr f = .ok a := by
  cases f with
  | f1 => exact ⟨_, rfl⟩
  | f2 => exact ⟨_, operandAddr1_eq_ok (h.imp_right fun hpc => by simp [Format.length] at hpc; omega)⟩
  | f3 => exact ⟨_, operandAddr2_eq_ok (h.imp_right fun hpc => by simp [Format.length] at hpc; omega)⟩

/-- Where the last byte does not fit, the first address past the top is raised (R222). -/
theorem lastByteAddr_error_of_not_fits (h : ¬ s.Fits f) : s.lastByteAddr f = .error 0x10000 := by
  have hpc := s.pc.isLt
  obtain ⟨hwrap, hlen⟩ := not_or.mp h
  have hp : s.params.addrOverflow = .fault := by
    cases hp : s.params.addrOverflow with
    | fault => rfl
    | wrap16 => exact absurd hp hwrap
  have htop (htop : s.pc.toNat = 65535) : s.operandAddr1 = .error 0x10000 := by
    refine (addrAdd_natCast_eq_error (k := 1) hp (by omega)).trans ?_
    rw [htop]
    rfl
  cases f with
  | f1 => simp [Format.length] at hlen; omega
  | f2 => exact htop (by simp [Format.length] at hlen; omega)
  | f3 =>
    simp [Format.length] at hlen
    obtain h1 | h1 : s.pc.toNat = 65535 ∨ s.pc.toNat = 65534 := by omega
    · exact operandAddr2_of_operandAddr1_error (htop h1)
    · have hpc : s.pc = 0xFFFE := BitVec.eq_of_toNat_eq h1
      exact (operandAddr2_of_operandAddr1 (operandAddr1_at_FFFE hpc)).trans (addrAdd_FFFF_one_of_fault hp)

/-! ## The resolvers that fail with the operand's address -/

theorem resolveImm_of_operandAddr1_error (h : s.operandAddr1 = .error t) : resolveImm s = .error t := by
  simp [resolveImm, h]

theorem resolveIndY_of_operandAddr1_error (n : Byte) (h : s.operandAddr1 = .error t) : resolveIndY n s = .error t := by
  simp [resolveIndY, h]

theorem resolveRel_of_operandAddr1_error (n : Byte) (h : s.operandAddr1 = .error t) : resolveRel n s = .error t := by
  simp [resolveRel, h]

theorem resolveAbsX_of_operandAddr2_error (w : Word) (h : s.operandAddr2 = .error t) : resolveAbsX w s = .error t := by
  simp [resolveAbsX, h]

theorem resolveAbsY_of_operandAddr2_error (w : Word) (h : s.operandAddr2 = .error t) : resolveAbsY w s = .error t := by
  simp [resolveAbsY, h]

theorem resolveInd_of_operandAddr2_error (w : Word) (h : s.operandAddr2 = .error t) : resolveInd w s = .error t := by
  simp [resolveInd, h]

theorem resolveMode_of_lastByteAddr_error (w : Word) {md : Mode} (h : s.lastByteAddr md.format = .error t) :
    resolveMode w md s = .error t := by
  cases md with
  | immediate => exact resolveImm_of_operandAddr1_error h
  | accumulator => cases h
  | zeroPage => exact resolveZp_of_operandAddr1_error _ h
  | zeroPageX => exact resolveZpX_of_operandAddr1_error _ h
  | zeroPageY => exact resolveZpY_of_operandAddr1_error _ h
  | absolute => exact resolveAbs_of_operandAddr2_error _ h
  | absoluteX => exact resolveAbsX_of_operandAddr2_error _ h
  | absoluteY => exact resolveAbsY_of_operandAddr2_error _ h
  | indirect => exact resolveInd_of_operandAddr2_error _ h
  | indirectX => exact resolveIndX_of_operandAddr1_error _ h
  | indirectY => exact resolveIndY_of_operandAddr1_error _ h
  | relative => exact resolveRel_of_operandAddr1_error _ h

/-- Once its operand is read, a mode that indexes answers what indexing its base does. -/
theorem resolveMode_of_indexTerms {w c : Word} {k : Byte} {md : Mode} (h : s.lastByteAddr md.format = .ok a)
    (hterms : indexTerms s w md = some (c, k)) : resolveMode w md s = s.indexed c k := by
  cases md with
  | absoluteX =>
    cases hterms
    exact resolveAbsX_of_operandAddr2 _ h
  | absoluteY =>
    cases hterms
    exact resolveAbsY_of_operandAddr2 _ h
  | indirectY =>
    cases hterms
    exact resolveIndY_of_operandAddr1 _ h
  | _ => cases hterms

/-- Once its operand is read, an instruction in a mode that does not index resolves. -/
theorem resolveOf_ok_of_no_index {i : Instr} (h : s.lastByteAddr i.mode.format = .ok a)
    (hterms : indexTerms s (Operand.asWord i.operand) i.mode = none) : ∃ r, resolveOf i s = .ok r := by
  rw [resolveOf_eq_resolveMode]
  cases hm : i.mode with
  | immediate => exact ⟨_, resolveImm_of_operandAddr1 (hm ▸ h)⟩
  | accumulator => exact ⟨_, rfl⟩
  | zeroPage => exact ⟨_, resolveZp_of_operandAddr1 _ (hm ▸ h)⟩
  | zeroPageX => exact ⟨_, resolveZpX_of_operandAddr1 _ (hm ▸ h)⟩
  | zeroPageY => exact ⟨_, resolveZpY_of_operandAddr1 _ (hm ▸ h)⟩
  | absolute => exact ⟨_, resolveAbs_of_operandAddr2 _ (hm ▸ h)⟩
  | indirectX => exact ⟨_, resolveIndX_of_operandAddr1 _ (hm ▸ h)⟩
  | indirect => exact absurd hm (Instr.mode_ne (by cases i.mnemonic <;> decide))
  | relative => exact absurd hm (Instr.mode_ne (by cases i.mnemonic <;> decide))
  | _ => simp [hm, indexTerms] at hterms

end Sys2Proof.Machine
end

section
/-! The faults of the address computations of a pulse, in their order (60_exceptions.md R222, R227). -/

namespace Sys2Proof.Machine

variable {s : State} {i : Instr} {t : Int}

theorem exec_of_resolve_error (h : resolveOf i s = .error t) :
    exec i s = .next (s.raise (.addressOverflow t) i.descriptor.opcode) := by
  simp [exec_eq_fetchPulse, fetchPulse, h]

theorem exec_of_advance_error {r : Resolved} (hr : resolveOf i s = .ok r) (h : s.addrAdd s.pc i.length = .error t) :
    exec i s = .next (s.raise (.addressOverflow t) i.descriptor.opcode) := by
  have h' : s.addrAdd s.pc i.descriptor.length = .error t := h
  simp [exec_eq_fetchPulse, fetchPulse, hr, h']

/-- An instruction out of range is so under `fault`, by its PC advance or its indexed sum. -/
theorem not_addressesInRange (h : ¬ AddressesInRange i s) :
    s.params.addrOverflow = .fault ∧ (65535 < s.pc.toNat + i.length ∨ 65535 < indexSum i s) := by
  obtain ⟨hwrap, hrange⟩ := not_or.mp h
  cases hp : s.params.addrOverflow with
  | fault => exact ⟨rfl, by omega⟩
  | wrap16 => exact absurd hp hwrap

/-- The overflow an instruction out of range raises: an operand byte past the top, else the indexed sum, else the PC
advance (R227). -/
def firstOverflow (i : Instr) (s : State) : Int :=
  if s.pc.toNat + i.length > 65536 then 0x10000
  else if indexSum i s > 65535 then (indexSum i s : Int) else 0x10000

/-- Once the operand is read, an indexed sum past the top is raised (R53). -/
theorem resolveOf_error_of_indexSum (hp : s.params.addrOverflow = .fault) {a : Word}
    (ha : s.lastByteAddr i.mode.format = .ok a) (hsum : 65535 < indexSum i s) :
    resolveOf i s = .error (indexSum i s) := by
  rw [resolveOf_eq_resolveMode]
  cases hterms : indexTerms s (Operand.asWord i.operand) i.mode with
  | none => simp [indexSum, hterms] at hsum
  | some terms =>
    obtain ⟨b, k⟩ := terms
    have heq : indexSum i s = b.toNat + k.toNat := by simp [indexSum, hterms]
    rw [heq] at hsum ⊢
    rw [resolveMode_of_indexTerms ha hterms, State.indexed, addrAdd_natCast_eq_error hp hsum]

/-- Once the operand is read, an instruction whose indexed sum is an address resolves. -/
theorem resolveOf_ok_of_indexSum {a : Word} (ha : s.lastByteAddr i.mode.format = .ok a)
    (hsum : indexSum i s ≤ 65535) : ∃ r, resolveOf i s = .ok r := by
  cases hterms : indexTerms s (Operand.asWord i.operand) i.mode with
  | none => exact resolveOf_ok_of_no_index ha hterms
  | some terms =>
    obtain ⟨b, k⟩ := terms
    simp only [indexSum, hterms] at hsum
    rw [resolveOf_eq_resolveMode, resolveMode_of_indexTerms ha hterms, indexed_eq_ok (.inr hsum)]
    exact ⟨_, rfl⟩

/-- An instruction out of range records its first overflow (R222, R227). -/
theorem exec_of_not_addressesInRange (h : ¬ AddressesInRange i s) :
    exec i s = .next (s.raise (.addressOverflow (firstOverflow i s)) i.descriptor.opcode) := by
  obtain ⟨hp, hout⟩ := not_addressesInRange h
  unfold firstOverflow
  split_ifs with hoperand hsum
  · refine exec_of_resolve_error ?_
    rw [resolveOf_eq_resolveMode]
    refine resolveMode_of_lastByteAddr_error _ (lastByteAddr_error_of_not_fits ?_)
    rw [i.length_eq] at hoperand
    simp [State.Fits, hp, hoperand]
  · obtain ⟨a, ha⟩ := lastByteAddr_ok_of_fits (s := s) (f := i.mode.format) (.inr (i.length_eq ▸ not_lt.mp hoperand))
    exact exec_of_resolve_error (resolveOf_error_of_indexSum hp ha hsum)
  · obtain ⟨a, ha⟩ := lastByteAddr_ok_of_fits (s := s) (f := i.mode.format) (.inr (i.length_eq ▸ not_lt.mp hoperand))
    obtain ⟨r, hr⟩ := resolveOf_ok_of_indexSum ha (not_lt.mp hsum)
    have hpc : s.pc.toNat + i.length = 65536 := by omega
    refine exec_of_advance_error hr ((addrAdd_natCast_eq_error hp (by omega)).trans ?_)
    rw [hpc]
    rfl

end Sys2Proof.Machine

namespace Sys2Proof.Proofs

open Sys2Proof.Machine

/-- Settles O43: the resolver reads the operand before it indexes, and PC advances after both. -/
theorem addressOverflowRecordsTheFirst : Obligations.AddressOverflowRecordsTheFirst :=
  fun _ _ => exec_of_not_addressesInRange

end Sys2Proof.Proofs
end

section
/-! The fetch (49_clock_dispatch.md R191) by what stands at PC: the instruction that the bytes there decode to, or the
fault of an unpopulated opcode or of an operand byte past the top (60_exceptions.md R221, R222). -/

namespace Sys2Proof

/-- Every row's tags are an admitted pair (R72). -/
theorem mode_mem_modes_of_row {d : Descriptor} (hd : d ∈ opcodeTable) : d.mode ∈ d.instr.modes := by
  revert d
  decide

/-- A row is as long as its mode's format (R70). -/
theorem length_of_row {d : Descriptor} (hd : d ∈ opcodeTable) : d.length = d.mode.format.length := by
  revert d
  decide

/-- An admitted pair assembles an instruction from any operand bytes (R73). -/
theorem assemble_of_mem_modes {m : Mnemonic} {md : Mode} (h : md ∈ m.modes) (l r : Byte) :
    ∃ i, assemble m md l r = .ok i := by
  revert md
  cases m <;> simp [Mnemonic.modes, assemble]

end Sys2Proof

namespace Sys2Proof.Machine

open Sys2Proof.Claims

variable {s : State} {d : Descriptor} {f : Format}

theorem fetchOperands_of_lastByteAddr_error {t : Int} (h : s.lastByteAddr f = .error t) :
    s.fetchOperands f = .error t := by
  cases f with
  | f1 => cases h
  | f2 =>
    have h1 : s.operandAddr1 = .error t := h
    simp [State.fetchOperands, h1]
  | f3 =>
    have h2 : s.operandAddr2 = .error t := h
    cases h1 : s.operandAddr1 with
    | error u =>
      rw [operandAddr2_of_operandAddr1_error h1] at h2
      simpa [State.fetchOperands, h1] using h2
    | ok a =>
      rw [operandAddr2_of_operandAddr1 h1] at h2
      simp [State.fetchOperands, h1, h2]

/-- The operand bytes that fit are those of the format at PC+1 and PC+2 (R70, R73). -/
theorem fetchOperands_of_fits (h : s.Fits f) :
    s.fetchOperands f = .ok (f.operand (s.memRead (s.pc + 1)) (s.memRead (s.pc + 2))).bytes := by
  cases f with
  | f1 => rfl
  | f2 =>
    have hpc : s.params.addrOverflow = .wrap16 ∨ s.pc.toNat + 1 ≤ 65535 := h.imp_right Nat.le_of_succ_le_succ
    simp [State.fetchOperands, operandAddr1_eq_ok hpc, Format.operand, Operand.bytes]
  | f3 =>
    have hpc : s.params.addrOverflow = .wrap16 ∨ s.pc.toNat + 2 ≤ 65535 := h.imp_right Nat.le_of_succ_le_succ
    have h1 := operandAddr1_eq_ok (hpc.imp_right (by omega))
    have h2 := (operandAddr2_of_operandAddr1 h1).symm.trans (operandAddr2_eq_ok hpc)
    simp only [State.fetchOperands, h1, h2, Format.operand, Operand.bytes, loByte_joinBytes, hiByte_joinBytes]

/-- The two bytes after the opcode start with the operand bytes of any format. -/
theorem exists_append_operand_bytes (l r : Byte) (f : Format) : ∃ rest, [l, r] = (f.operand l r).bytes ++ rest := by
  cases f with
  | f1 => exact ⟨[l, r], rfl⟩
  | f2 => exact ⟨[r], rfl⟩
  | f3 => exact ⟨[], by simp [Format.operand, Operand.bytes]⟩

/-- The operand bytes a format takes from a list of bytes are as many whatever they are. -/
theorem length_operand_bytes (l r : Byte) (f : Format) : (f.operand l r).bytes.length = f.length - 1 := by
  cases f <;> rfl

/-- At a populated opcode the bytes at PC decode (R71). -/
theorem decode_window_of_populated (hd : describe (s.memRead s.pc) = some d) :
    ∃ i rest, decode (window s) = .ok (i, rest) := by
  obtain ⟨i, hi⟩ := assemble_of_mem_modes (mode_mem_modes_of_row (describe_eq_some_iff.mp hd).1)
    (s.memRead (s.pc + 1)) (s.memRead (s.pc + 2))
  obtain ⟨rest, hrest⟩ := exists_append_operand_bytes (s.memRead (s.pc + 1)) (s.memRead (s.pc + 2)) d.mode.format
  exact ⟨i, rest, (decode_cons_eq_ok_iff hd).mpr ⟨_, _, hi, hrest⟩⟩

/-- The fetch gives the instruction that the bytes at PC decode to, where it fits (R191). -/
theorem fetch_of_decode_window {i : Instr} {rest : List Byte} (hdec : decode (window s) = .ok (i, rest))
    (hfits : s.Fits i.mode.format) : s.fetch = .ok i := by
  obtain ⟨op, tail, d, hwindow, hd⟩ := describe_of_decode_eq_ok hdec
  cases hwindow
  obtain ⟨l, r, hi, htail⟩ := (decode_cons_eq_ok_iff hd).mp hdec
  rw [(mode_operand_of_assemble hi).1] at hfits
  have hops := fetchOperands_of_fits hfits
  obtain ⟨rest', hrest'⟩ := exists_append_operand_bytes (s.memRead (s.pc + 1)) (s.memRead (s.pc + 2)) d.mode.format
  have hbytes : (d.mode.format.operand (s.memRead (s.pc + 1)) (s.memRead (s.pc + 2))).bytes =
      (d.mode.format.operand l r).bytes :=
    (List.append_inj (hrest'.symm.trans htail) (by rw [length_operand_bytes, length_operand_bytes])).1
  have hdec' : decode (s.memRead s.pc :: (d.mode.format.operand l r).bytes) = .ok (i, []) :=
    (decode_cons_eq_ok_iff hd).mpr ⟨l, r, hi, (List.append_nil _).symm⟩
  rw [hbytes] at hops
  simp only [State.fetch, hd, hops, hdec']

/-- At a populated opcode whose operand fits the fetch gives an instruction of the opcode's mode. -/
theorem fetch_of_fits (hd : describe (s.memRead s.pc) = some d) (hfits : s.Fits d.mode.format) :
    ∃ i, s.fetch = .ok i := by
  obtain ⟨i, rest, hdec⟩ := decode_window_of_populated hd
  obtain ⟨l, r, hi, -⟩ := (decode_cons_eq_ok_iff hd).mp hdec
  exact ⟨i, fetch_of_decode_window hdec ((mode_operand_of_assemble hi).1 ▸ hfits)⟩

/-- An operand byte past the top fails the fetch (R222). -/
theorem fetch_of_not_fits (hd : describe (s.memRead s.pc) = some d) (hfits : ¬ s.Fits d.mode.format) :
    s.fetch = .error (.addressOverflow 0x10000) := by
  simp [State.fetch, hd, fetchOperands_of_lastByteAddr_error (lastByteAddr_error_of_not_fits hfits)]

/-- The fetch fails at an unpopulated opcode, or under `fault` with an operand byte past the top. -/
theorem fetch_error_cases {kind : FaultKind} (h : s.fetch = .error kind) :
    (kind = .unimplementedOpcode ∧ describe (s.memRead s.pc) = none) ∨
      (kind = .addressOverflow 0x10000 ∧ s.params.addrOverflow = .fault) := by
  cases hd : describe (s.memRead s.pc) with
  | none => exact .inl ⟨Except.error.inj (h.symm.trans (fetch_of_unpopulated hd)), rfl⟩
  | some d =>
    by_cases hfits : s.Fits d.mode.format
    · obtain ⟨i, hi⟩ := fetch_of_fits hd hfits
      cases hi.symm.trans h
    · refine .inr ⟨Except.error.inj (h.symm.trans (fetch_of_not_fits hd hfits)), ?_⟩
      cases hp : s.params.addrOverflow with
      | fault => rfl
      | wrap16 => exact absurd (.inl hp) hfits

/-- The first overflow of an instruction out of range is past the top by less than an index (R223). -/
theorem firstOverflow_bounds (i : Instr) (s : State) : 0x10000 ≤ firstOverflow i s ∧ firstOverflow i s ≤ 0x100FE := by
  have hsum : indexSum i s ≤ 0x100FE := by
    unfold indexSum
    split
    · next b k _ =>
      have := b.isLt
      have := k.isLt
      omega
    · omega
  unfold firstOverflow
  split_ifs <;> omega

end Sys2Proof.Machine

namespace Sys2Proof.Proofs

open Sys2Proof.Machine

/-- Settles O38: where the instruction's bytes fit, the fetch reads them and gives what they decode to. -/
theorem stepRunsTheDecodedInstruction : Obligations.StepRunsTheDecodedInstruction := by
  intro s i rest hidle hdec hfits
  rw [i.length_eq] at hfits
  exact step_of_fetch hidle (fetch_of_decode_window hdec hfits)

/-- Settles O40: the step tests the fault record first. -/
theorem faultedStateHasNoStep : Obligations.FaultedStateHasNoStep := by
  intro s r hfault
  simp [step, hfault]

/-- Settles O41: the fetch fails at the opcode byte. -/
theorem unpopulatedOpcodeIsRecorded : Obligations.UnpopulatedOpcodeIsRecorded :=
  fun _ hidle hnone => step_of_fetch_error hidle (fetch_of_unpopulated hnone)

/-- Settles O42: the row's length is its format's, so its last operand byte is past the top, and the fetch fails. -/
theorem operandPastTheTopIsRecorded : Obligations.OperandPastTheTopIsRecorded := by
  intro s d hidle hp hd hlen
  rw [length_of_row (describe_eq_some_iff.mp hd).1] at hlen
  refine step_of_fetch_error hidle (fetch_of_not_fits hd ?_)
  simp [State.Fits, hp, hlen]

/-- Settles O45: a fault is a failed fetch's or an instruction's out of range, whose first overflow is bounded. -/
theorem onlyTwoFaultsAreRecorded : Obligations.OnlyTwoFaultsAreRecorded := by
  intro s t r hstep hr
  obtain ⟨hnone, ⟨-, rfl⟩ | ⟨-, i, hfetch, hexec⟩ | ⟨-, kind, hfetch, rfl⟩⟩ := step_cases hstep
  · simp [hnone] at hr
  · by_cases hrange : AddressesInRange i s
    · obtain ⟨u, hu, hcompleted, -⟩ := hrange.exec_completed
      cases hu.symm.trans hexec
      simp [hcompleted.fault, hnone] at hr
    · cases (exec_of_not_addressesInRange hrange).symm.trans hexec
      cases hr
      exact ⟨rfl, opcode_of_fetch hfetch, .inr ⟨(not_addressesInRange hrange).1, _, rfl, firstOverflow_bounds i s⟩⟩
  · cases hr
    obtain ⟨rfl, hd⟩ | ⟨rfl, hp⟩ := fetch_error_cases hfetch
    · exact ⟨rfl, rfl, .inl ⟨rfl, hd⟩⟩
    · exact ⟨rfl, rfl, .inr ⟨hp, _, rfl, by decide, by decide⟩⟩

end Sys2Proof.Proofs
end

section
/-! The pulses of one instruction (49_clock_dispatch.md R192, R195, R198). -/

namespace Sys2Proof.Machine

variable {s t : State} {i : Instr}

/-- While Executing, `k` pulses count `CYC` down by `k` and do nothing else (R195). -/
theorem run_of_executing {k : Nat} (hfault : s.fault = none) (hk : (k : Int) ≤ s.cyc) :
    Host.Core.run Sys2Proof.core k s = .next { s with cyc := s.cyc - k } := by
  induction k generalizing s with
  | zero =>
    rw [run_zero]
    simp
  | succ k ih =>
    rw [run_succ k (step_of_executing hfault (by omega)), ih (s := s.tick) hfault (by rw [State.tick_cyc]; omega)]
    simp only [State.tick]
    congr 2
    omega

theorem pulseUntilIdle_of_failed (n : Nat) (h : t.Failed) : pulseUntilIdle n t = .next t := by
  cases n with
  | zero => rfl
  | succ n => simp [pulseUntilIdle, h]

/-- While Executing, pulses count `CYC` down to 0 and do nothing else (R198). -/
theorem pulseUntilIdle_of_executing {n : Nat} (hfault : t.fault = none) (hcyc : t.cyc = n) :
    pulseUntilIdle n t = .next { t with cyc := 0 } := by
  induction n generalizing t with
  | zero =>
    rw [pulseUntilIdle, ← Int.natCast_zero, ← hcyc]
  | succ n ih =>
    have hpos : 0 < t.cyc := by omega
    rw [pulseUntilIdle, if_pos ⟨hpos, hfault⟩, step_of_executing hfault hpos]
    exact ih (t := t.tick) hfault (by rw [State.tick_cyc]; omega)

theorem stepInstr_of_step (h : step s = .next t) : stepInstr s = pulseUntilIdle t.cyc.toNat t := by
  simp [stepInstr, h]

/-- A fetch pulse in range completes its instruction, with no fault (R191). -/
theorem step_of_inRange (hidle : s.AtBoundary) (hfetch : s.fetch = .ok i) (hrange : AddressesInRange i s) :
    ∃ t, exec i s = .next t ∧ step s = .next t ∧ t.fault = none ∧ t.cyc = cost i s - 1 := by
  obtain ⟨t, hexec, hcompleted, -⟩ := hrange.exec_completed
  exact ⟨t, hexec, (step_of_fetch hidle hfetch).trans hexec, hcompleted.fault.trans hidle.2, hcompleted.cyc⟩

/-- A boundary's pulse is discarded with a fault recorded, or its instruction is fetched and in range. -/
theorem boundary_cases (hidle : s.AtBoundary) :
    (∃ t, step s = .next t ∧ t.Failed ∧ t.cyc = s.cyc) ∨ ∃ i, s.fetch = .ok i ∧ AddressesInRange i s := by
  cases hfetch : s.fetch with
  | error kind => exact .inl ⟨_, step_of_fetch_error hidle hfetch, by simp [State.Failed], rfl⟩
  | ok i =>
    obtain ⟨kind, hexec⟩ | hrange := exec_cases i s
    · exact .inl ⟨_, (step_of_fetch hidle hfetch).trans hexec, by simp [State.Failed], rfl⟩
    · exact .inr ⟨i, rfl, hrange⟩

/-- After its fetch pulse an instruction in range counts down from its cost (R192, R196). -/
theorem run_of_inRange (hidle : s.AtBoundary) (hfetch : s.fetch = .ok i) (hrange : AddressesInRange i s)
    (hexec : exec i s = .next t) {k : Nat} (h1 : 1 ≤ k) (hk : (k : Int) ≤ cost i s) :
    Host.Core.run Sys2Proof.core k s = .next { t with cyc := cost i s - k } := by
  obtain ⟨u, hu, hstep, hfault, hcyc⟩ := step_of_inRange hidle hfetch hrange
  cases hu.symm.trans hexec
  obtain ⟨j, rfl⟩ : ∃ j, k = j + 1 := ⟨k - 1, by omega⟩
  rw [run_succ j hstep, run_of_executing hfault (by omega), hcyc]
  congr 2
  omega

/-- The instruction step of an instruction in range ends with `CYC` 0 (R198). -/
theorem stepInstr_of_inRange (hidle : s.AtBoundary) (hfetch : s.fetch = .ok i) (hrange : AddressesInRange i s) :
    ∃ t, exec i s = .next t ∧ t.fault = none ∧ stepInstr s = .next { t with cyc := 0 } := by
  obtain ⟨t, hexec, hstep, hfault, hcyc⟩ := step_of_inRange hidle hfetch hrange
  have := cost_bounds i s
  exact ⟨t, hexec, hfault, (stepInstr_of_step hstep).trans (pulseUntilIdle_of_executing hfault (by omega))⟩

end Sys2Proof.Machine

namespace Sys2Proof.Proofs

open Sys2Proof.Machine

/-- Settles O47: the fetch pulse leaves the cost less 1, and each later pulse counts down. -/
theorem instructionTakesExactlyItsCost : Obligations.InstructionTakesExactlyItsCost := by
  intro s i hidle hfetch hrange
  obtain ⟨t, hexec⟩ := exec_answers i s
  exact ⟨t, hexec, (cost_bounds i s).1, (cost_bounds i s).2, fun k => run_of_inRange hidle hfetch hrange hexec⟩

/-- Settles O48: a discarded fetch pulse ends the step at once, a completed one is counted down to 0. -/
theorem instructionStepEndsAtABoundary : Obligations.InstructionStepEndsAtABoundary := by
  intro s hidle
  obtain ⟨t, hstep, hfailed, hcyc⟩ | ⟨i, hfetch, hrange⟩ := boundary_cases hidle
  · refine ⟨t, (stepInstr_of_step hstep).trans (pulseUntilIdle_of_failed _ hfailed), ?_, fun _ => hstep, fun h => ?_⟩
    · exact hcyc.trans_le hidle.1
    · exact absurd h hfailed
  · obtain ⟨t, hexec, hfault, hstepInstr⟩ := stepInstr_of_inRange hidle hfetch hrange
    exact ⟨_, hstepInstr, le_rfl, absurd hfault, fun _ => ⟨rfl, i, t, hfetch, hexec, rfl⟩⟩

end Sys2Proof.Proofs
end

section
/-! Runs to a stop address (49_clock_dispatch.md R202): the pulses up to the first stop. -/

namespace Sys2Proof.Machine

variable {stop : Word} {s t u v : State} {n k k' : Nat}

/-- `k` pulses lead from `s` to `t` with no end of the run before `t`: a `RunReaches` from any state. -/
def PulsesTo (stop : Word) (s : State) (k : Nat) (t : State) : Prop :=
  Host.Core.run Sys2Proof.core k s = .next t ∧
    ∀ (j : Nat) (u : State), j < k → Host.Core.run Sys2Proof.core j s = .next u → ¬ u.EndOfRun stop

/-- A run stands still in a state: it has ended or failed there. -/
def Stopped (stop : Word) (t : State) : Prop := t.EndOfRun stop ∨ t.Failed

theorem runEnds_iff (hidle : s.AtBoundary) : RunEnds stop s k t ↔ PulsesTo stop s k t ∧ t.EndOfRun stop :=
  and_congr_left fun _ => and_iff_right hidle

theorem runFails_iff (hidle : s.AtBoundary) : RunFails stop s k t ↔ PulsesTo stop s k t ∧ t.Failed :=
  and_congr_left fun _ => and_iff_right hidle

theorem pulsesTo_zero_iff : PulsesTo stop s 0 t ↔ t = s := by
  constructor
  · exact fun h => Host.Outcome.next.inj (h.1.symm.trans (run_zero s))
  · rintro rfl
    exact ⟨run_zero t, fun j _ hj => absurd hj (Nat.not_lt_zero j)⟩

/-- A run of `k + 1` pulses starts with one that answers. -/
theorem step_of_run_succ (h : Host.Core.run Sys2Proof.core (k + 1) s = .next t) : ∃ u, step s = .next u := by
  cases hs : s.fault with
  | none => exact Proofs.unfaultedPulseAlwaysAnswers s hs
  | some r => exact absurd (run_faulted (by simp [State.Failed, hs]) h) (Nat.succ_ne_zero k)

theorem pulsesTo_succ_iff (hs : step s = .next u) :
    PulsesTo stop s (k + 1) t ↔ ¬ s.EndOfRun stop ∧ PulsesTo stop u k t := by
  unfold PulsesTo
  rw [run_succ k hs]
  constructor
  · rintro ⟨hrun, hbefore⟩
    refine ⟨hbefore 0 s (Nat.succ_pos k) (run_zero s), hrun, fun j v hj hv => ?_⟩
    exact hbefore (j + 1) v (Nat.succ_lt_succ hj) ((run_succ j hs).trans hv)
  · rintro ⟨hend, hrun, hbefore⟩
    refine ⟨hrun, fun j v hj hv => ?_⟩
    cases j with
    | zero =>
      cases (run_zero s).symm.trans hv
      exact hend
    | succ j => exact hbefore j v (Nat.lt_of_succ_lt_succ hj) ((run_succ j hs).symm.trans hv)

/-- A stop is passed by no run. -/
theorem PulsesTo.le_of_stopped (h : PulsesTo stop s k t) (hstop : Stopped stop t) (h' : PulsesTo stop s k' v) :
    k' ≤ k := by
  by_contra hlt
  obtain hend | hfailed := hstop
  · exact h'.2 k t (not_le.mp hlt) h.1 hend
  · have hrest : Host.Core.run Sys2Proof.core (k' - k) t = .next v := by
      rw [← run_add (k' - k) h.1, Nat.add_sub_cancel' (by omega)]
      exact h'.1
    have := run_faulted hfailed hrest
    omega

/-- Two stops of a run are the same state after the same pulses. -/
theorem PulsesTo.unique (h : PulsesTo stop s k t) (hstop : Stopped stop t) (h' : PulsesTo stop s k' v)
    (hstop' : Stopped stop v) : k = k' ∧ t = v := by
  obtain rfl : k = k' := le_antisymm (h'.le_of_stopped hstop' h) (h.le_of_stopped hstop h')
  exact ⟨rfl, Host.Outcome.next.inj (h.1.symm.trans h'.1)⟩

/-- A run through a state is a run from that state, after the pulses that lead there. -/
theorem PulsesTo.add_iff (h : PulsesTo stop s n t) : PulsesTo stop s (n + k) v ↔ PulsesTo stop t k v := by
  induction n generalizing s with
  | zero =>
    obtain rfl := pulsesTo_zero_iff.mp h
    rw [Nat.zero_add]
  | succ n ih =>
    obtain ⟨u, hu⟩ := step_of_run_succ h.1
    obtain ⟨hend, hrest⟩ := (pulsesTo_succ_iff hu).mp h
    rw [Nat.succ_add, pulsesTo_succ_iff hu, ih hrest, and_iff_right hend]

/-- A run through a state stops where the run from that state does, after the pulses that lead there. -/
theorem PulsesTo.stops_iff (h : PulsesTo stop s n t) {Q : Prop} (hstop : Q → Stopped stop v) :
    PulsesTo stop s k v ∧ Q ↔ ∃ j, k = n + j ∧ PulsesTo stop t j v ∧ Q := by
  constructor
  · rintro ⟨hv, hQ⟩
    obtain ⟨j, rfl⟩ := Nat.exists_eq_add_of_le (hv.le_of_stopped (hstop hQ) h)
    exact ⟨j, rfl, h.add_iff.mp hv, hQ⟩
  · rintro ⟨j, rfl, hv, hQ⟩
    exact ⟨h.add_iff.mpr hv, hQ⟩

theorem runTo_of_stopped (n : Nat) (h : Stopped stop s) : runTo stop n s = s.runStatus stop := by
  obtain hend | hfailed := h
  · rw [runTo_ended n hend, runStatus_ended hend]
  · rw [runTo_failed n hfailed, runStatus_failed hfailed]

/-- `runTo` reports how the run stands after `n` pulses, or at a stop before. -/
theorem runTo_eq_runStatus (hk : k ≤ n) (h : PulsesTo stop s k t) (hlast : k = n ∨ Stopped stop t) :
    runTo stop n s = t.runStatus stop := by
  induction k generalizing s n with
  | zero =>
    obtain rfl := pulsesTo_zero_iff.mp h
    obtain rfl | hstop := hlast
    · exact runTo.eq_1 stop t
    · exact runTo_of_stopped n hstop
  | succ k ih =>
    obtain ⟨m, rfl⟩ : ∃ m, n = m + 1 := ⟨n - 1, by omega⟩
    obtain ⟨u, hu⟩ := step_of_run_succ h.1
    obtain ⟨hend, hrest⟩ := (pulsesTo_succ_iff hu).mp h
    rw [runTo_step m hend hu]
    exact ih (by omega) hrest (hlast.imp_left (by omega))

/-- A run stops within `n` pulses or goes on for `n`. -/
theorem exists_pulsesTo (stop : Word) (n : Nat) (s : State) :
    ∃ k t, k ≤ n ∧ PulsesTo stop s k t ∧ (k = n ∨ Stopped stop t) := by
  induction n generalizing s with
  | zero => exact ⟨0, s, le_rfl, pulsesTo_zero_iff.mpr rfl, .inl rfl⟩
  | succ n ih =>
    by_cases hstop : Stopped stop s
    · exact ⟨0, s, Nat.zero_le _, pulsesTo_zero_iff.mpr rfl, .inr hstop⟩
    · obtain ⟨hend, hfault⟩ := not_or.mp hstop
      obtain ⟨u, hu⟩ := Proofs.unfaultedPulseAlwaysAnswers s (not_not.mp hfault)
      obtain ⟨k, t, hk, ht, hlast⟩ := ih u
      exact ⟨k + 1, t, by omega, (pulsesTo_succ_iff hu).mpr ⟨hend, ht⟩, hlast.imp_left (by omega)⟩

/-- A run has ended in a state exactly when the state is an end of it (R202). -/
theorem runStatus_eq_ended_iff : t.runStatus stop = .ended u ↔ t = u ∧ u.EndOfRun stop := by
  constructor
  · intro h
    by_cases hend : t.EndOfRun stop
    · cases (runStatus_ended hend).symm.trans h
      exact ⟨rfl, hend⟩
    · by_cases hfailed : t.Failed
      · cases (runStatus_failed hfailed).symm.trans h
      · cases (runStatus_running hend hfailed).symm.trans h
  · rintro ⟨rfl, hend⟩
    exact runStatus_ended hend

/-- A run has failed in a state exactly when the state has a fault recorded (R202). -/
theorem runStatus_eq_failed_iff : t.runStatus stop = .failed u ↔ t = u ∧ u.Failed := by
  constructor
  · intro h
    by_cases hend : t.EndOfRun stop
    · cases (runStatus_ended hend).symm.trans h
    · by_cases hfailed : t.Failed
      · cases (runStatus_failed hfailed).symm.trans h
        exact ⟨rfl, hfailed⟩
      · cases (runStatus_running hend hfailed).symm.trans h
  · rintro ⟨rfl, hfailed⟩
    exact runStatus_failed hfailed

/-- A run goes on in a state exactly when it has not stopped there. -/
theorem runStatus_eq_running_iff : (∃ u, t.runStatus stop = .running u) ↔ ¬ Stopped stop t := by
  constructor
  · rintro ⟨u, h⟩ (hend | hfailed)
    · cases (runStatus_ended hend).symm.trans h
    · cases (runStatus_failed hfailed).symm.trans h
  · intro hstop
    obtain ⟨hend, hfailed⟩ := not_or.mp hstop
    exact ⟨t, runStatus_running hend hfailed⟩

/-- An instruction in range away from the stop address is gone through: no state before its end is an end of the run
(R198, R202). -/
theorem pulsesTo_of_inRange {i : Instr} (hidle : s.AtBoundary) (hpc : s.pc ≠ stop) (hfetch : s.fetch = .ok i)
    (hrange : AddressesInRange i s) (hexec : exec i s = .next t) :
    PulsesTo stop s (cost i s).toNat { t with cyc := 0 } := by
  have hrun {k : Nat} (h1 : 1 ≤ k) (hk : (k : Int) ≤ cost i s) := run_of_inRange hidle hfetch hrange hexec h1 hk
  have hcost := cost_bounds i s
  refine ⟨?_, fun j v hj hv hend => ?_⟩
  · rw [hrun (by omega) (by omega), Int.toNat_of_nonneg (by omega), sub_self]
  · cases j with
    | zero =>
      cases (run_zero s).symm.trans hv
      exact hpc hend.2
    | succ j =>
      cases (hrun (Nat.succ_pos j) (by omega)).symm.trans hv
      have hidle' : cost i s - (j + 1 : Nat) ≤ 0 := hend.1.1
      omega

end Sys2Proof.Machine

namespace Sys2Proof.Proofs

open Sys2Proof.Machine

/-- Settles O52: `runTo` reports how the run stands at its first stop, or after `n` pulses when it has none by then. -/
theorem runToFindsTheFirstStop : Obligations.RunToFindsTheFirstStop := by
  intro stop n s hidle
  obtain ⟨k, t, hk, ht, hlast⟩ := exists_pulsesTo stop n s
  rw [runTo_eq_runStatus hk ht hlast]
  refine ⟨fun u => ⟨fun h => ?_, fun ⟨m, hm, hends⟩ => ?_⟩, fun u => ⟨fun h => ?_, fun ⟨m, hm, hfails⟩ => ?_⟩,
    ⟨fun h => ?_, fun ⟨u, _, hreaches, hend, hfailed⟩ => ?_⟩⟩
  · obtain ⟨rfl, hend⟩ := runStatus_eq_ended_iff.mp h
    exact ⟨k, hk, ⟨hidle, ht⟩, hend⟩
  · obtain ⟨⟨-, hu⟩, hend⟩ := hends
    rw [← runTo_eq_runStatus hk ht hlast, runTo_eq_runStatus hm hu (.inr (.inl hend)), runStatus_ended hend]
  · obtain ⟨rfl, hfailed⟩ := runStatus_eq_failed_iff.mp h
    exact ⟨k, hk, ⟨hidle, ht⟩, hfailed⟩
  · obtain ⟨⟨-, hu⟩, hfailed⟩ := hfails
    rw [← runTo_eq_runStatus hk ht hlast, runTo_eq_runStatus hm hu (.inr (.inr hfailed)), runStatus_failed hfailed]
  · have hstop := runStatus_eq_running_iff.mp h
    obtain rfl := hlast.resolve_right hstop
    obtain ⟨hend, hfailed⟩ := not_or.mp hstop
    exact ⟨t, ht.1, ⟨hidle, ht⟩, hend, hfailed⟩
  · obtain ⟨-, hu⟩ := hreaches
    rw [← runTo_eq_runStatus hk ht hlast, runTo_eq_runStatus le_rfl hu (.inl rfl)]
    exact ⟨u, runStatus_running hend hfailed⟩

/-- Settles O53: an end and a failure are stops, a run has one stop, and no state is both. -/
theorem runHasAtMostOneEnd : Obligations.RunHasAtMostOneEnd := by
  refine ⟨fun stop s t t' k k' => ?_, fun stop s t t' k k' => ?_⟩
  · rintro ⟨⟨-, ht⟩, hend⟩ ⟨⟨-, ht'⟩, hend'⟩
    exact PulsesTo.unique ht (.inl hend) ht' (.inl hend')
  · rintro ⟨⟨-, ht⟩, hend⟩ ⟨⟨-, ht'⟩, hfailed'⟩
    obtain ⟨-, rfl⟩ := PulsesTo.unique ht (.inl hend) ht' (.inr hfailed')
    exact hfailed' hend.1.2

/-- Settles O54: a run stands still at the stop address; elsewhere it goes through the instruction at PC and on from
there, or stops at its fault. -/
theorem runGoesInstructionByInstruction : Obligations.RunGoesInstructionByInstruction := by
  refine ⟨fun stop s t k hend => ?_, fun stop s i hidle hpc hfetch hrange => ?_,
    fun stop s t hidle hpc hstep hfailed => ?_⟩
  · have hzero : PulsesTo stop s 0 s := pulsesTo_zero_iff.mpr rfl
    constructor
    · rintro ⟨⟨-, ht⟩, hend'⟩
      obtain ⟨rfl, rfl⟩ := PulsesTo.unique hzero (.inl hend) ht (.inl hend')
      exact ⟨rfl, rfl⟩
    · rintro ⟨rfl, rfl⟩
      exact ⟨⟨hend.1, hzero⟩, hend⟩
  · obtain ⟨t, hexec, hfault, hstepInstr⟩ := stepInstr_of_inRange hidle hfetch hrange
    have hidle' : ({ t with cyc := 0 } : State).AtBoundary := ⟨le_rfl, hfault⟩
    have hthrough := pulsesTo_of_inRange hidle hpc hfetch hrange hexec
    have hcost (k j : Nat) : (k : Int) = cost i s + j ↔ k = (cost i s).toNat + j := by
      have := cost_bounds i s
      omega
    refine ⟨_, hstepInstr, hidle', fun k u => ?_⟩
    simp only [hcost, runEnds_iff hidle, runEnds_iff hidle', runFails_iff hidle, runFails_iff hidle']
    exact ⟨hthrough.stops_iff .inl, hthrough.stops_iff .inr⟩
  · exact (runFails_iff hidle).mpr
      ⟨(pulsesTo_succ_iff hstep).mpr ⟨fun hend => hpc hend.2, pulsesTo_zero_iff.mpr rfl⟩, hfailed⟩

end Sys2Proof.Proofs
end

section
/-! The opcode table and the power-on state against the spec's own lists (30_encoding.md R72, R78; 10_state.md R36). -/

namespace Sys2Proof

/-- An opcode byte is populated exactly when it is the opcode of a row (R75). -/
theorem describe_isSome_iff {op : Byte} : (describe op).isSome = true ↔ op ∈ opcodeTable.map (·.opcode) := by
  simp only [Option.isSome_iff_exists, describe_eq_some_iff, List.mem_map]

/-- Every row has the length of its format, the cycles of the table by mode and the penalty of its mode (R70, R72,
70_reset_and_hazards.md R246). -/
theorem row_follows_mode_tables {d : Descriptor} (hd : d ∈ opcodeTable) :
    d.length = d.mode.format.length ∧ Claims.cycleTable d.instr d.mode = some d.baseCycles ∧
      d.pageCrossPenaltyEligible = (d.mode.canCross && d.instr != .sta && d.instr != .asl) := by
  revert d
  decide

end Sys2Proof

namespace Sys2Proof.Proofs

open Sys2Proof.Machine

/-- Settles O3: each word is the encoding of its instruction. -/
theorem sampleWordsDecode : Obligations.SampleWordsDecode :=
  ⟨decode_encode (.ldaImm 0x70) [], decode_encode .aslAcc [], decode_encode (.staZp 0x10) [],
    decode_encode (.ldaZpX 0x10) [], decode_encode (.staAbs 0x0200) [], decode_encode (.ldaAbsX 0x20FF) [],
    decode_encode (.adcAbsY 0x0300) [], decode_encode (.ldaIndX 0x20) [], decode_encode (.staIndY 0x20) [],
    decode_encode (.andAbsX 0x02FC) [], decode_encode (.aslAbsX 0x0300) []⟩

/-- Settles O4: the bytes listed are the opcodes of the table's rows, in its order. -/
theorem thirtySixOpcodesArePopulated : Obligations.ThirtySixOpcodesArePopulated :=
  fun _ => describe_isSome_iff

/-- Settles O5: what a lookup finds is a row of the table, and each row is checked. -/
theorem descriptorsFollowTheModeTables : Obligations.DescriptorsFollowTheModeTables := by
  intro op d hd
  obtain ⟨hrow, hop⟩ := describe_eq_some_iff.mp hd
  exact ⟨hop, row_follows_mode_tables hrow⟩

/-- Settles O6: the reset state is the power-on state under the machine's own parameters. -/
theorem resetHoldsThePowerOnValues : Obligations.ResetHoldsThePowerOnValues :=
  ⟨rfl, rfl, rfl, rfl, rfl, rfl, rfl, rfl, rfl, rfl, rfl, rfl, rfl, rfl⟩

/-- Settles O7: initialisation keeps memory and the parameters alone. -/
theorem initialiseClearsAllButMemory : Obligations.InitialiseClearsAllButMemory :=
  ⟨fun _ => ⟨rfl, rfl, rfl, ⟨le_rfl, rfl⟩, rfl, rfl⟩, rfl⟩

/-- Settles O51: the reset state is Idle with no fault, and its memory lists nothing. -/
theorem resetMeetsTheInvariants : Obligations.ResetMeetsTheInvariants :=
  ⟨⟨le_rfl, rfl⟩, ⟨List.Pairwise.nil, nofun⟩, le_rfl, by decide⟩

/-- Settles O8: the write is one cell of memory. -/
theorem hostWriteChangesOneByte : Obligations.HostWriteChangesOneByte :=
  fun s a b v => ⟨State.memRead_memWrite s a b v, rfl⟩

end Sys2Proof.Proofs
end

section
/-! Address arithmetic and the pointers as numbers (20_memory.md R53, R55; 40_addressing_modes.md R121, R130). -/

namespace Sys2Proof.Machine

open Sys2Proof.Claims

variable {s : State}

/-- Adding an integer to an address is the sum modulo 65536. -/
theorem toNat_add_ofInt (a : Word) (k : Int) : ((a + BitVec.ofInt 16 k).toNat : Int) = (a.toNat + k) % 65536 := by
  rw [← ofInt_toNat_add, BitVec.toNat_ofInt]
  omega

theorem readZp16_of_wrap (h : s.params.zpPtrWrap = .wrap) (z : Byte) :
    s.readZp16 z = joinBytes (s.memRead (zeroExtend16 (z + 1))) (s.memRead (zeroExtend16 z)) := by
  simp [State.readZp16, h]

theorem readZp16_of_linear (h : s.params.zpPtrWrap = .linear) (z : Byte) :
    s.readZp16 z = joinBytes (s.memRead (zeroExtend16 z + 1)) (s.memRead (zeroExtend16 z)) := by
  simp [State.readZp16, h]

/-- A word of the page of `u` and the offset of `v` in its page (R130). -/
theorem page_or_offset (u v : Word) : (u &&& 0xFF00) ||| (v &&& 0x00FF) = joinBytes (hiByte u) (loByte v) := by
  apply BitVec.eq_of_getLsbD_eq
  intro k hk
  simp only [joinBytes, hiByte, loByte, BitVec.getLsbD_or, BitVec.getLsbD_and, BitVec.getLsbD_append,
    BitVec.getLsbD_extractLsb']
  interval_cases k <;> simp

/-- Indexing in the terms of the claims: the carry out of the low byte is the page cross (R134). -/
theorem indexed_eq_indexedResult (s : State) (b : Word) (k : Byte) : s.indexed b k = indexedResult s b k := by
  have hcross : pageCross b k = decide (b.toNat % 256 + k.toNat > 255) := by rw [pageCross, toNat_loByte]
  cases hadd : s.addrAdd b k.toNat with
  | ok ea => simp [State.indexed, indexedResult, hadd, hcross]
  | error t => simp [State.indexed, indexedResult, hadd]

/-- A zero index never crosses a page (R128, R129, R132). -/
theorem indexedResult_zero_cross {b : Word} {r : Resolved} (h : indexedResult s b 0 = .ok r) : r.cross = false := by
  unfold indexedResult at h
  split at h
  · cases h
    simp
    omega
  · cases h

/-- Indexing past 0xFFFF raises the sum under `fault` (R128, R129, R132). -/
theorem indexedResult_of_fault {b : Word} {k : Byte} (hp : s.params.addrOverflow = .fault)
    (hsum : b.toNat + k.toNat > 0xFFFF) : indexedResult s b k = .error (b.toNat + k.toNat) := by
  simp [indexedResult, addrAdd_natCast_eq_error hp hsum]

/-- Indexing past 0xFFFF wraps with a page cross under `wrap16` (R128, R129, R132). -/
theorem indexedResult_of_wrap16 {b : Word} {k : Byte} (hp : s.params.addrOverflow = .wrap16)
    (hsum : b.toNat + k.toNat > 0xFFFF) :
    ∃ r, indexedResult s b k = .ok r ∧ r.ea.toNat = (b.toNat + k.toNat) % 65536 ∧ r.cross = true := by
  rw [← indexed_eq_indexedResult, indexed_eq_ok (.inl hp)]
  refine ⟨_, rfl, ?_, (pageCross_eq_true_iff b k).mpr ?_⟩
  · rw [BitVec.toNat_add, toNat_zeroExtend16]
  · have := k.isLt
    omega

/-- The signed offset of Relative mode, `n - 256 * n[7]` (R133). -/
theorem signedOffset_eq (n : Byte) : signedOffset n = (n.toNat : Int) - 256 * (n.getLsbD 7).toNat := by
  have hmsb : n.msb = n.getLsbD 7 := BitVec.msb_eq_getLsbD_last n
  rw [signedOffset, byte_toInt, hmsb]
  cases n.getLsbD 7 <;> simp

end Sys2Proof.Machine

namespace Sys2Proof

theorem Mnemonic.indirect_not_mem_modes (m : Mnemonic) : Mode.indirect ∉ m.modes := by
  cases m <;> decide

theorem Mnemonic.relative_not_mem_modes (m : Mnemonic) : Mode.relative ∉ m.modes := by
  cases m <;> decide

end Sys2Proof

namespace Sys2Proof.Proofs

open Sys2Proof.Machine

/-- Settles O9: in range the sum is its own value modulo 65536, and out of range the policy says which is answered. -/
theorem addrAddGivesTheSumWrapsOrRaises : Obligations.AddrAddGivesTheSumWrapsOrRaises := by
  intro p a k
  split_ifs with hrange hp
  · refine ⟨_, addrAdd_eq_ok (.inr hrange), ?_⟩
    rw [toNat_add_ofInt]
    omega
  · exact ⟨_, addrAdd_eq_ok (.inl hp), toNat_add_ofInt a k⟩
  · cases p with
    | fault => exact addrAdd_eq_error rfl (by omega)
    | wrap16 => exact absurd rfl hp

/-- Settles O10: the second byte's address is AddrAdd's, and the two bytes are joined. -/
theorem readSixteenIsLittleEndian : Obligations.ReadSixteenIsLittleEndian := by
  intro s a
  cases hadd : s.addrAdd a 1 with
  | ok b => exact ⟨_, read16_of_addrAdd hadd, toNat_joinBytes _ _⟩
  | error t => exact read16_of_addrAdd_error hadd

/-- Settles O11: under `wrap` the next byte's address is a byte sum, under `linear` a word sum, which never wraps. -/
theorem zeroPagePointerWrapsByParameter : Obligations.ZeroPagePointerWrapsByParameter := by
  refine fun s z => ⟨fun hp => ?_, fun hp => ?_⟩
  · have hnext : (zeroExtend16 (z + 1)).toNat = (z.toNat + 1) % 256 := toNat_zeroExtend16_add z 1
    rw [readZp16_of_wrap hp, toNat_joinBytes, State.memRead, State.memRead, hnext, toNat_zeroExtend16]
  · have hnext : (zeroExtend16 z + 1).toNat = z.toNat + 1 := by
      have := z.isLt
      rw [BitVec.toNat_add, toNat_zeroExtend16, show (1 : Word).toNat = 1 from rfl]
      omega
    rw [readZp16_of_linear hp, toNat_joinBytes, State.memRead, State.memRead, hnext, toNat_zeroExtend16]

/-- Settles O17: once the operand word is read, both resolvers index it. -/
theorem indexedAbsoluteResolvers : Obligations.IndexedAbsoluteResolvers := by
  refine fun s => ⟨fun w hread => ?_, fun w t herr => ?_, fun w r => indexedResult_zero_cross,
    fun w k hsum => ⟨fun hp => indexedResult_of_fault hp hsum, fun hp => indexedResult_of_wrap16 hp hsum⟩⟩
  · obtain ⟨b, haddr⟩ := operandAddr2_ok_of_operandWordRead hread
    rw [resolveAbsX_of_operandAddr2 w haddr, resolveAbsY_of_operandAddr2 w haddr]
    exact ⟨indexed_eq_indexedResult s w s.x, indexed_eq_indexedResult s w s.y⟩
  · have haddr := operandAddr2_error_of_operandWordRead herr
    exact ⟨resolveAbsX_of_operandAddr2_error w haddr, resolveAbsY_of_operandAddr2_error w haddr⟩

/-- Settles O19: once the operand byte is read, the resolver indexes the pointer at it. -/
theorem indirectYResolver : Obligations.IndirectYResolver := by
  refine fun s => ⟨fun n hread => ?_, fun n t herr => ?_⟩
  · obtain ⟨a, haddr⟩ := operandAddr1_ok_of_operandByteRead hread
    rw [resolveIndY_of_operandAddr1 n haddr, indexed_eq_indexedResult]
    refine ⟨rfl, fun hy r hr => ?_, fun hsum => ⟨fun hp => indexedResult_of_fault hp hsum,
      fun hp => indexedResult_of_wrap16 hp hsum⟩⟩
    rw [hy] at hr
    exact indexedResult_zero_cross hr
  · exact resolveIndY_of_operandAddr1_error n (operandAddr1_error_of_operandByteRead herr)

/-- Settles O20: the Immediate resolver answers the operand byte's address, which the operand byte was read at. -/
theorem immediateAndAccumulatorResolvers : Obligations.ImmediateAndAccumulatorResolvers := by
  refine fun s => ⟨?_, fun n a hread haddr => ?_, fun hpc hp => ?_, fun hpc hp => ?_, rfl⟩
  · cases haddr : s.addrAdd s.pc 1 with
    | ok a => exact resolveImm_of_operandAddr1 haddr
    | error t => exact resolveImm_of_operandAddr1_error haddr
  · simpa [Claims.operandByteRead, haddr] using hread
  · refine resolveImm_of_operandAddr1_error ?_
    rw [State.operandAddr1, hpc]
    exact addrAdd_FFFF_one_of_fault hp
  · refine resolveImm_of_operandAddr1 ?_
    rw [State.operandAddr1, hpc]
    exact addrAdd_FFFF_one_of_wrap16 hp

/-- Settles O21: the second byte's address is AddrAdd's under `linear`, and a page with an offset under `page_wrap`. -/
theorem indirectResolver : Obligations.IndirectResolver := by
  refine ⟨fun s w hread => ⟨fun hp => ?_, fun hp => ?_⟩,
    Instr.mode_ne_of_not_mem_modes Mnemonic.indirect_not_mem_modes⟩
  · obtain ⟨b, haddr⟩ := operandAddr2_ok_of_operandWordRead hread
    simp only [resolveInd, haddr, State.readPointer, hp, State.read16]
    cases s.addrAdd w 1 <;> rfl
  · obtain ⟨b, haddr⟩ := operandAddr2_ok_of_operandWordRead hread
    refine ⟨joinBytes (hiByte w) (loByte (w + 1)), ?_, ?_⟩
    · have := w.isLt
      rw [toNat_joinBytes, toNat_hiByte, toNat_loByte, BitVec.toNat_add, show (1 : Word).toNat = 1 from rfl]
      omega
    · simp only [resolveInd, haddr, State.readPointer, hp, page_or_offset]
      rfl

/-- Settles O22: the operand's signed value is the two's complement of the byte. -/
theorem relativeResolver : Obligations.RelativeResolver := by
  refine ⟨fun s n hread => ?_, Instr.mode_ne_of_not_mem_modes Mnemonic.relative_not_mem_modes⟩
  obtain ⟨a, haddr⟩ := operandAddr1_ok_of_operandByteRead hread
  simp only [resolveRel, haddr, signedOffset_eq]
  cases s.addrAdd s.pc (1 + ((n.toNat : Int) - 256 * (n.getLsbD 7).toNat)) <;> rfl

/-- Settles O23: the flag's bit follows the policy, and the write is a write of P alone. -/
theorem flagWriteFollowsThePolicy : Obligations.FlagWriteFollowsThePolicy := by
  intro s f c
  have hflag : (s.flagWrite f c).flag f = flagValue s.params.flags (s.flag f) c :=
    (State.flagWrite_bit s f c (flagBit f)).trans (if_pos rfl)
  refine ⟨fun hp => ?_, fun hp => ?_, fun k hk => ?_, rfl⟩
  · rw [hflag, hp]
    rfl
  · rw [hflag, hp]
    rfl
  · exact State.flagWrite_bit_of_ne s f c (by simpa using hk)

end Sys2Proof.Proofs
end
